-- ==== Sys2Proof/Word.lean ====
section
/-!
DEFINITION. The widths of the block's data (00_scope.md R9: `uN` is an N-bit unsigned value).
-/

namespace Sys2Proof

/-- `u8`: a byte on the wire, in XBUF or in the sink's object. -/
abbrev Byte := BitVec 8

/-- `u16`: an identification value or a W16 sample. -/
abbrev Half := BitVec 16

/-- `u32`: a port datum, an XBUF word, a CBUF entry. -/
abbrev Word := BitVec 32

end Sys2Proof
end

