-- ==== Sys2Proof/Config.lean ====
section
/-!
DEFINITION. The implementation parameters of 00_scope.md R7, the example configuration, and the one free
value of the model. Machine/Parameters.lean has their legality (R8) and the parameters R7 fixes.
-/

namespace Sys2Proof

/-- A width mode (10_state.md R23): 32-bit or 16-bit samples. -/
inductive Width where
  | w32
  | w16
  deriving DecidableEq, Repr

/-- The numeric encoding of a width mode (R23): 0 is W32, 1 is W16. -/
def Width.code : Width → BitVec 1
  | .w32 => 0
  | .w16 => 1

/-- The two link-controller registers (20_memory.md R40). -/
inductive PortReg where
  | ctrl
  | stat
  deriving DecidableEq, Repr

/-- The byte order of the reference sink (43_storage_interface.md R131). -/
inductive ByteOrder where
  | big
  | little
  deriving DecidableEq, Repr

/-- `CLEAR_IMPL`, the bus realisation of `PortClearErr` (R82, D13). R82 gives the effect whatever the
realisation is, so no definition of the model branches on it (log 14). -/
inductive ClearImpl where
  /-- ones written to the channel's error bits in STAT clear them (G8) -/
  | writeOneToClear
  /-- another realisation, known by a number -/
  | other (code : Nat)
  deriving DecidableEq, Repr

/-- The parameters marked OPEN in R7. One value of this type is part of every machine state, sampled
at reset and constant until the next reset (R30); a statement about every state is a statement about
every configuration. -/
structure Config where
  /-- `CHANNEL`, the link port the block drives -/
  channel : BitVec 2
  /-- `INITIAL_WIDTH` -/
  initialWidth : Width
  /-- `HANDHELD_ID` -/
  handheldId : Half
  /-- `SR_SENTINEL` -/
  sentinel : Word
  /-- `BUSY_REG` -/
  busyReg : PortReg
  /-- `BUSY_MASK` -/
  busyMask : Word
  /-- `ERR_MASK(0)` -/
  errMask0 : Word
  /-- `ERR_MASK(1)` -/
  errMask1 : Word
  /-- `ERR_MASK(2)` -/
  errMask2 : Word
  /-- `ERR_MASK(3)` -/
  errMask3 : Word
  /-- `CLEAR_IMPL` -/
  clearImpl : ClearImpl
  /-- `CMD_BUF_WORDS` -/
  cmdBufWords : Nat
  /-- `POLL_BOUND`; `none` is the default, no bound -/
  pollBound : Option Nat
  /-- `ADDR_CTRL`. The spec gives the bus addresses no width: 32 bits is the model's choice (log 26) -/
  addrCtrl : Word
  /-- `ADDR_STAT`, 32 bits (log 26) -/
  addrStat : Word
  /-- `ADDR_BUF`, the address of XBUF word 0, 32 bits (log 26) -/
  addrBuf : Word
  /-- `SINK_BYTE_ORDER` -/
  sinkByteOrder : ByteOrder
  /-- `SINK_FIRST_ON_FAIL` -/
  sinkFirstOnFail : Bool
  deriving DecidableEq, Repr

namespace Config

/-- The example parameter values of 95_test_vectors.md (G2 to G8 for the values the source does not
give), with CHANNEL = 0 and INITIAL_WIDTH = W32. PRESUMED and DESIGN CHOICE, log 1: no statement
about every state depends on it; only `State.reset` does. -/
def reference : Config where
  channel := 0
  initialWidth := .w32
  handheldId := 0x0004
  sentinel := 0x80000000
  busyReg := .ctrl
  busyMask := 0x00000001
  errMask0 := 0x0F000000
  errMask1 := 0x000F0000
  errMask2 := 0x00000F00
  errMask3 := 0x0000000F
  clearImpl := .writeOneToClear
  cmdBufWords := 32
  pollBound := none
  addrCtrl := 0
  addrStat := 4
  addrBuf := 128
  sinkByteOrder := .big
  sinkFirstOnFail := false

/-- FREE VALUE (U11, log 5): whether the `n`-th NEG_REJECTED record is emitted. R115 admits both. -/
opaque negRejectedLogged : Nat → Bool

end Config

end Sys2Proof
end

