-- ==== Sys2Proof/Syntax.lean ====
section
/-!
DEFINITION. The instructions: one constructor for each row of spec/opcode_table.json. The block's
"instructions" are the two command frames it can issue and the control words (00_scope.md R2).
-/

namespace Sys2Proof

/-- One constructor per row of the opcode table. -/
inductive Instr where
  /-- PING: the identification command frame, byte 0x00 (R57, R90) -/
  | ping
  /-- DATA: the data command frame, byte 0x14 (R57, R91) -/
  | data
  /-- CONTROL_WORD: the general control word, with its channel, INLEN and OUTLEN fields (R60, R78) -/
  | controlWord (channel : BitVec 2) (inLen outLen : BitVec 7)
  /-- CW_PING_CH0: the control word 0x01010381 (R62) -/
  | cwPingCh0
  /-- CW_PING_CH1: the control word 0x03010383 (R62) -/
  | cwPingCh1
  /-- CW_PING_CH2: the control word 0x05010385 (R62) -/
  | cwPingCh2
  /-- CW_PING_CH3: the control word 0x07010387 (R62) -/
  | cwPingCh3
  /-- CW_DATA_CH0: the control word 0x01010481 (R62) -/
  | cwDataCh0
  /-- CW_DATA_CH1: the control word 0x03010483 (R62) -/
  | cwDataCh1
  /-- CW_DATA_CH2: the control word 0x05010485 (R62) -/
  | cwDataCh2
  /-- CW_DATA_CH3: the control word 0x07010487 (R62) -/
  | cwDataCh3
  deriving DecidableEq, Repr

/-- A command frame (30_encoding.md R56): a command byte and two lengths in bytes. -/
structure CommandFrame where
  cmd : Byte
  inLen : BitVec 7
  outLen : BitVec 7
  deriving DecidableEq, Repr

/-- The fields (channel, in_len, out_len) of a control word of the table (R60, R62); `none` for the
two command frames. -/
def Instr.controlFields : Instr → Option (BitVec 2 × BitVec 7 × BitVec 7)
  | .ping => none
  | .data => none
  | .controlWord c i o => some (c, i, o)
  | .cwPingCh0 => some (0, 3, 1)
  | .cwPingCh1 => some (1, 3, 1)
  | .cwPingCh2 => some (2, 3, 1)
  | .cwPingCh3 => some (3, 3, 1)
  | .cwDataCh0 => some (0, 4, 1)
  | .cwDataCh1 => some (1, 4, 1)
  | .cwDataCh2 => some (2, 4, 1)
  | .cwDataCh3 => some (3, 4, 1)

end Sys2Proof
end

