-- ==== Sys2Proof/WellFormed.lean ====
section
/-!
DEFINITION. Well-formed instructions. The operand widths are in the types (R56, R60); the one check is
that the general CONTROL_WORD does not stand for a word that a row of its own names (R62).
-/

namespace Sys2Proof

/-- The lengths (in_len, out_len) of the control words that have rows of their own: (3, 1) is a
CW_PING row, (4, 1) a CW_DATA row, each for all four channels (R62). -/
def hasOwnRow (inLen outLen : BitVec 7) : Bool :=
  outLen == 1 && (inLen == 3 || inLen == 4)

/-- The instruction is the one the table gives its word: CONTROL_WORD only where no CW row does. -/
def WellFormed : Instr → Bool
  | .ping => true
  | .data => true
  | .controlWord _ i o => !hasOwnRow i o
  | .cwPingCh0 => true
  | .cwPingCh1 => true
  | .cwPingCh2 => true
  | .cwPingCh3 => true
  | .cwDataCh0 => true
  | .cwDataCh1 => true
  | .cwDataCh2 => true
  | .cwDataCh3 => true

end Sys2Proof
end

