-- ==== Sys2Proof/Decode.lean ====
section
/-!
DEFINITION. Decoding, total on any bytes, and encoding (30_encoding.md). A command frame is one byte,
its command byte; a control word is four bytes, its most significant byte first (log 10: CTRL is written
whole, so the spec gives its bytes no order).
-/

namespace Sys2Proof

/-- Why bytes are no instruction of the table. -/
inductive DecodeError where
  /-- neither one byte (a frame) nor four (a control word): R71 knows no other form -/
  | length (n : Nat)
  /-- a command byte other than 0x00 and 0x14 (R70) -/
  | unknownCommand (cmd : Byte)
  /-- a word that fails an equality of R63, so is no control word (R70) -/
  | notControlWord (w : Word)
  deriving DecidableEq, Repr

/-- `ControlWord`, the field assembly of R61, on fields already masked to their widths. -/
def controlWord (channel : BitVec 2) (inLen outLen : BitVec 7) : Word :=
  (channel.zeroExtend 32 <<< 25) ||| (1#32 <<< 24) ||| (outLen.zeroExtend 32 <<< 16)
    ||| (inLen.zeroExtend 32 <<< 8) ||| (1#32 <<< 7) ||| (channel.zeroExtend 32 <<< 1) ||| 1#32

/-- `ControlWord(channel, in_len, out_len)` of R61 on any non-negative integers: the channel is masked
to 2 bits and the lengths to 7 before packing. -/
def controlWordOf (channel inLen outLen : Nat) : Word :=
  controlWord (BitVec.ofNat 2 channel) (BitVec.ofNat 7 inLen) (BitVec.ofNat 7 outLen)

/-- The bits of a control word that R60 fixes: CHEN, CMDEN, START and the reserved bits. -/
def controlFixedMask : Word := 0xF98080F9

/-- The value of those bits: CHEN = CMDEN = START = 1, the reserved bits 0. -/
def controlFixedValue : Word := 0x01000081

/-- `CH`, cw[26:25] (R60). -/
def cwChannel (w : Word) : BitVec 2 := w.extractLsb' 25 2

/-- `OUTLEN`, cw[22:16] (R60). -/
def cwOutLen (w : Word) : BitVec 7 := w.extractLsb' 16 7

/-- `INLEN`, cw[14:8] (R60). -/
def cwInLen (w : Word) : BitVec 7 := w.extractLsb' 8 7

/-- `CH2`, cw[2:1] (R60). -/
def cwChannel2 (w : Word) : BitVec 2 := w.extractLsb' 1 2

/-- The CW_PING row of a channel (R62). -/
def cwPing (c : BitVec 2) : Instr :=
  if c = 0 then .cwPingCh0 else if c = 1 then .cwPingCh1
  else if c = 2 then .cwPingCh2 else .cwPingCh3

/-- The CW_DATA row of a channel (R62). -/
def cwData (c : BitVec 2) : Instr :=
  if c = 0 then .cwDataCh0 else if c = 1 then .cwDataCh1
  else if c = 2 then .cwDataCh2 else .cwDataCh3

/-- The row that names a control word with these fields: CW_PING or CW_DATA of the channel where R62
has the word, else CONTROL_WORD. -/
def controlInstr (c : BitVec 2) (i o : BitVec 7) : Instr :=
  if o = 1 ∧ i = 3 then cwPing c
  else if o = 1 ∧ i = 4 then cwData c
  else .controlWord c i o

/-- A word is a control word of this block when every equality of R63 holds: the fixed bits have their
values and the duplicate channel field equals the channel. -/
def isControlWord (w : Word) : Bool :=
  w &&& controlFixedMask == controlFixedValue && cwChannel w == cwChannel2 w

/-- Decoding a control word (R63). -/
def decodeControl (w : Word) : Except DecodeError Instr :=
  if isControlWord w then .ok (controlInstr (cwChannel w) (cwInLen w) (cwOutLen w))
  else .error (.notControlWord w)

/-- Decoding a command byte (R57, R70). -/
def decodeCommand (b : Byte) : Except DecodeError Instr :=
  if b = 0x00 then .ok .ping
  else if b = 0x14 then .ok .data
  else .error (.unknownCommand b)

/-- Four bytes, the most significant first, as a word. -/
def wordOfBytes (b3 b2 b1 b0 : Byte) : Word := b3 ++ b2 ++ b1 ++ b0

/-- Byte `k` of a word, byte 0 the most significant. -/
def byteOfWord (w : Word) (k : Nat) : Byte := w.extractLsb' (24 - 8 * k) 8

/-- The bytes of a word, the most significant first. -/
def bytesOfWord (w : Word) : List Byte :=
  [byteOfWord w 0, byteOfWord w 1, byteOfWord w 2, byteOfWord w 3]

/-- Decoding, total: one byte is a command frame, four are a control word, nothing else is either. -/
def decode : List Byte → Except DecodeError Instr
  | [b] => decodeCommand b
  | [b3, b2, b1, b0] => decodeControl (wordOfBytes b3 b2 b1 b0)
  | bs => .error (.length bs.length)

/-- Encoding (R57, R61, R62). -/
def encode : Instr → List Byte
  | .ping => [0x00]
  | .data => [0x14]
  | .controlWord c i o => bytesOfWord (controlWord c i o)
  | .cwPingCh0 => bytesOfWord (controlWord 0 3 1)
  | .cwPingCh1 => bytesOfWord (controlWord 1 3 1)
  | .cwPingCh2 => bytesOfWord (controlWord 2 3 1)
  | .cwPingCh3 => bytesOfWord (controlWord 3 3 1)
  | .cwDataCh0 => bytesOfWord (controlWord 0 4 1)
  | .cwDataCh1 => bytesOfWord (controlWord 1 4 1)
  | .cwDataCh2 => bytesOfWord (controlWord 2 4 1)
  | .cwDataCh3 => bytesOfWord (controlWord 3 4 1)

/-- The bytes of a table word of `nbits` bits: a frame of the table has 8 bits, a control word 32. -/
def tableBytes (nbits w : Nat) : List Byte :=
  if nbits ≤ 8 then [BitVec.ofNat 8 w] else bytesOfWord (BitVec.ofNat 32 w)

/-- The instruction the decoder reads from a table word. -/
def decodeTableWord (nbits w : Nat) : Option Instr :=
  match decode (tableBytes nbits w) with
  | .ok i => some i
  | .error _ => none

end Sys2Proof
end

