-- ==== Sys2Proof/Machine/State.lean ====
section
/-!
DEFINITION. The state of the machine as plain data: the block's registers (10_state.md), the link
controller, the storage sink, the other agents' coming actions, and the state after reset (R153).
-/

namespace Sys2Proof.Machine

/-- `state` (10_state.md R19): 2 bits, the value 3 illegal. -/
inductive ProtoState where
  | idle
  | negotiating
  | capturing
  | illegal3
  deriving DecidableEq, Repr

/-- The numeric encoding of `state` (R19). -/
def ProtoState.code : ProtoState → BitVec 2
  | .idle => 0
  | .negotiating => 1
  | .capturing => 2
  | .illegal3 => 3

/-- What the refusal-like fault value `Unmodelled(what)` names (R141). -/
inductive What where
  /-- a frame with a command byte other than 0x00 and 0x14 -/
  | command (cmd : Byte)
  /-- a configuration that breaks R8 -/
  | configuration
  deriving DecidableEq, Repr

/-- The values of the `fault` register other than none (60_exceptions.md R140). -/
inductive FaultCode where
  /-- E4: `polls` has reached the poll bound while busy still read set (R89) -/
  | linkStall (ch : BitVec 2)
  /-- `state` holds 3 at K3 (R141) -/
  | illegalState (v : BitVec 2)
  /-- a step would reach a state that breaks R32 (R141) -/
  | invariantViolation
  /-- an index at or past a capacity, or a misaligned address (R48, R141) -/
  | capacityExceeded (i : Nat)
  /-- R140 lists it as a value of the register. R141 makes it a refusal, so no step of the model
  writes it: the step answers a `Refusal` instead (log 11) -/
  | unmodelled (what : What)
  deriving DecidableEq, Repr

/-- The input events of one poll (R103). -/
structure Events where
  exit : Bool
  toggle : Bool
  deriving DecidableEq, Repr

/-- The handler label a transfer returns to (R18, R87): I1 of R107, N1 of R111, C3 of R117. -/
inductive ReturnLabel where
  | i1
  | n1
  | c3
  deriving DecidableEq, Repr

/-- The operands of the transfer in progress, and its return label (R18, R87). They exist only while the
transfer runs: a frame is not retained (R56). -/
structure Transfer where
  frame : CommandFrame
  wantStatus : Bool
  ret : ReturnLabel
  deriving DecidableEq, Repr

/-- The labels T1 to T7 of R87. `cw` is the local variable of `configure_transfer` (R78), which spans
T3 and T4. -/
inductive TransferLabel where
  | t1
  | t2
  | t3 (cw : Word)
  | t4 (cw : Word)
  | t5
  | t6
  | t7
  deriving DecidableEq, Repr

/-- The cause of a rejected negotiation (R115, R138). -/
inductive RejectCause where
  | errorBits
  | lengthZero
  | lengthTooLarge
  deriving DecidableEq, Repr

/-- A log record (R132). -/
inductive LogRecord where
  | deviceDetected (id : Half)
  | unrecognizedDevice (id : Half)
  | captureSize (len : Word)
  | negRejected (cause : RejectCause)
  | captureComplete (n : BitVec 10)
  | storageUnavailable
  | modeSwitch (width : Width)
  | exit
  deriving DecidableEq, Repr

/-- `phase` (10_state.md R18): the label the block stands at, with the values that are local to the
pseudocode from one label to a later one. A label with several primitives is several steps (R11): `n4State`,
`c7State` and `emit` stand inside such a label, at a primitive that is not its first (log 28). -/
inductive Phase where
  /-- waiting for a tick (R102) -/
  | k0
  /-- PollInput (R103) -/
  | k1
  /-- the events of this tick (R104, R105) -/
  | k2 (ev : Events)
  /-- the dispatch on `state` (R101) -/
  | k3
  | i0
  | i1
  | i2 (id : Half)
  | n0
  | n1
  | n2
  | n3 (len : Word)
  | n4 (len : Word)
  | c0
  | c1
  | c2
  | c3
  | c4
  | c5
  | c6
  | c7
  /-- N4, `target_length` written: the write of `state` is next (R114) -/
  | n4State (len : Word)
  /-- C7, `captured_count` written: the write of `state` is next (R121) -/
  | c7State
  /-- the `Log` of the label that emits the record is next (R132) -/
  | emit (r : LogRecord)
  /-- inside a transfer -/
  | transfer (label : TransferLabel) (op : Transfer)
  deriving DecidableEq, Repr

/-- A byte memory: cells by strictly rising address, none of them 0, which is what an unlisted address
reads as (R29: CBUF is cleared to zero; XBUF: log 3). -/
abbrev Memory := List Host.Cell

/-- The link controller's registers and buffer (10_state.md R35). -/
structure Link where
  /-- CTRL: the control word last written -/
  ctrl : Word
  /-- STAT as `PortRead(STAT)` answers it -/
  stat : Word
  /-- the word the block last wrote to STAT, the sentinel (R79, log 18) -/
  statWritten : Word
  /-- the busy bit (R69) -/
  busy : Bool
  /-- XBUF: word k at byte addresses 4k to 4k+3, the first byte on the wire lowest (R41, R43) -/
  xbuf : Memory
  deriving DecidableEq, Repr

/-- The storage sink (10_state.md R36). -/
structure Sink where
  /-- `sink_first` -/
  first : Bool
  /-- `obj`, the destination object -/
  obj : List Byte
  deriving DecidableEq, Repr

/-- One line of the transaction trace (30_encoding.md R74). -/
inductive Event where
  /-- `CLR c` -/
  | clr (c : BitVec 2)
  /-- `WB k v` -/
  | wb (k : Nat) (v : Word)
  /-- `W STAT v` -/
  | wStat (v : Word)
  /-- `W CTRL v` -/
  | wCtrl (v : Word)
  /-- `R BUSY -> b` -/
  | rBusy (busy : Bool)
  /-- `R STAT -> v` -/
  | rStat (v : Word)
  /-- `RB k -> v` -/
  | rb (k : Nat) (v : Word)
  /-- `CB i <- v` -/
  | cb (i : Nat) (v : Word)
  /-- `DELAY ms` -/
  | delay (ms : Nat)
  /-- `PERSIST n w -> r` -/
  | persist (n : BitVec 10) (w : Width) (ok : Bool)
  /-- `LOG tag args` -/
  | log (r : LogRecord)
  /-- `HALT` -/
  | halt
  deriving DecidableEq, Repr

/-- The link controller's answer to one transfer (R73, R146): how many polls read busy before the one
that reads not busy, what STAT and XBUF word 0 hold then, and what the words above word 0 hold into which
response bytes were received (R43, R58). All are draws: any value. -/
structure XferAnswer where
  busyPolls : Nat
  stat : Word
  resp : Word
  /-- the bytes of XBUF from address 4 on, the fifth byte received first -/
  more : List Byte
  deriving DecidableEq, Repr

/-- A termination of the block by the host and its new start (R134): the configuration the platform then
provides (R30, R156), and what the link controller holds then, a draw (R155). -/
structure Restart where
  cfg : Config
  link : Link
  deriving DecidableEq, Repr

/-- What the host does just before one step of the block: raise input events (R31), or terminate the
block and start it again (R134). -/
structure HostInput where
  exit : Bool
  toggle : Bool
  restart : Option Restart
  deriving DecidableEq, Repr

/-- One tick to come (R73): the events that stand with the grant, and the answers of the link controller and
of the sink that belong to this tick. -/
structure Tick where
  events : Events
  xfers : List XferAnswer
  sink : List Bool
  deriving DecidableEq, Repr

/-- The coming actions of the agents outside the block (R14), as plain data the step reads. An empty
queue is an agent that does not act: no tick, no input, a transfer that stays busy, no answer of the
sink; only the delay timer, with nothing queued, reports the delay at once (R73, log 4, log 20). -/
structure Env where
  /-- the ticks to come, each granted at K0 with its events and its answers (R73, R102) -/
  ticks : List Tick
  /-- for each coming step, what the host does before it -/
  host : List HostInput
  /-- the answers to the coming transfers of the present tick -/
  xfers : List XferAnswer
  /-- the timer's coming readings, in elapsed milliseconds of the delay (R147) -/
  timer : List Nat
  /-- for each coming Persist of the present tick, whether the destination can be opened (U12) -/
  sink : List Bool
  /-- how many answers a tick had that the block did not consume in it: an error of the script (R73) -/
  unused : Nat
  deriving DecidableEq, Repr

/-- The machine's state. INVENTORY.md lists each field with the rule that names it. -/
structure State where
  cfg : Config
  state : ProtoState
  phase : Phase
  deviceId : Half
  targetLength : BitVec 10
  capturedCount : BitVec 10
  widthMode : Width
  capWidth : Width
  halted : Bool
  fault : Option FaultCode
  polls : Nat
  tStat : Word
  tResp : Word
  cbuf : Memory
  pendExit : Bool
  pendToggle : Bool
  link : Link
  sink : Sink
  env : Env
  trace : List Event
  freeDraws : Nat
  deriving DecidableEq, Repr

/-- Why the machine has no next state. -/
inductive Fault where
  /-- the block stands faulted: its fault register holds a value, so it has no step (R26, R140). Raised
  by `blockStep`. Safe: the spec gives the block no further step until a reset -/
  | stopped (code : FaultCode)
  deriving DecidableEq, Repr

/-- Why the model gives no meaning. -/
inductive Refusal where
  /-- an instruction whose arm of `exec` has no meaning; no arm is left so. Safe -/
  | notModelled (mnemonic : String)
  /-- the configuration breaks a constraint of R8, `Unmodelled(what)` of R141. Raised by `blockStep`.
  Safe: R8 asks the model to refuse -/
  | illegalConfiguration
  /-- the command byte or control word the block stands at is no instruction: a frame with another
  command byte (R88, R70), a word that fails R63 (R70). Raised by `blockStep`. Safe: R70 asks the model
  to refuse, and the block's own rules never produce one -/
  | unmodelled (why : DecodeError)
  /-- a control word with INLEN or OUTLEN 0 would be written to CTRL: the spec gives no meaning to how the
  controller reads it and asks a model to refuse (R70, U7, U19). Raised by `controlWriteStep`. Safe -/
  | zeroLength (w : Word)
  deriving DecidableEq, Repr

/-- The outcome of a step of this machine. -/
abbrev Result := Host.Outcome State Fault Refusal

/-- The link controller before anything was written to it (R155, U4: any value; the zeros are
DESIGN CHOICE, log 3). -/
def Link.atPowerUp : Link where
  ctrl := 0
  stat := 0
  statWritten := 0
  busy := false
  xbuf := []

/-- No agent outside the block has anything to do yet (DESIGN CHOICE, log 4). -/
def Env.none : Env where
  ticks := []
  host := []
  xfers := []
  timer := []
  sink := []
  unused := 0

/-- The machine right after reset with configuration `c` (70_reset_and_hazards.md R153). -/
def State.resetWith (c : Config) : State where
  cfg := c
  state := .idle
  phase := .k0
  deviceId := 0
  targetLength := 0
  capturedCount := 0
  widthMode := c.initialWidth
  capWidth := c.initialWidth
  halted := false
  fault := Option.none
  polls := 0
  tStat := 0
  tResp := 0
  cbuf := []
  pendExit := false
  pendToggle := false
  link := Link.atPowerUp
  sink := { first := true, obj := [] }
  env := Env.none
  trace := []
  freeDraws := 0

/-- The machine right after reset, with the example configuration (log 1). -/
def State.reset : State := State.resetWith Config.reference

end Sys2Proof.Machine
end

