-- ==== Sys2Proof/Machine/Memory.lean ====
section
/-!
DEFINITION. Byte memory in canonical form, and whole words on it. CBUF and XBUF are read and written in
whole 32-bit entries only (20_memory.md R47); entry `i` is the bytes 4i to 4i+3, the most significant
lowest (XBUF: R43; CBUF: log 6).
-/

namespace Sys2Proof.Machine

/-- What an unlisted address reads as (R29: the buffer is cleared to zero). -/
def unlistedByte : Byte := 0

/-- The byte at an address. -/
def Memory.read : Memory → Nat → Byte
  | [], _ => unlistedByte
  | (b, v) :: m, a => if a = b then v else Memory.read m a

/-- A cell in front of a memory, or no cell where the byte is what an unlisted address reads as. -/
def Memory.cell (a : Nat) (v : Byte) (m : Memory) : Memory :=
  if v = unlistedByte then m else (a, v) :: m

/-- Write one byte, keeping the canonical form. -/
def Memory.write : Memory → Nat → Byte → Memory
  | [], a, v => Memory.cell a v []
  | (b, w) :: m, a, v =>
    if a < b then Memory.cell a v ((b, w) :: m)
    else if a = b then Memory.cell a v m
    else (b, w) :: Memory.write m a v

/-- Every address of `m` is above `a`. -/
def Memory.above (a : Nat) : Memory → Bool
  | [] => true
  | (b, _) :: m => decide (a < b) && Memory.above a m

/-- The canonical form: addresses strictly rising, no byte that an unlisted address reads as. -/
def Memory.wf : Memory → Bool
  | [] => true
  | (a, v) :: m => decide (v ≠ unlistedByte) && Memory.above a m && Memory.wf m

/-- Every address of `m` is below `n`. -/
def Memory.below (n : Nat) : Memory → Bool
  | [] => true
  | (a, _) :: m => decide (a < n) && Memory.below n m

/-- The 32-bit entry `i`. -/
def Memory.readWord (m : Memory) (i : Nat) : Word :=
  wordOfBytes (m.read (4 * i)) (m.read (4 * i + 1)) (m.read (4 * i + 2)) (m.read (4 * i + 3))

/-- Write the 32-bit entry `i`. -/
def Memory.writeWord (m : Memory) (i : Nat) (v : Word) : Memory :=
  (((m.write (4 * i) (byteOfWord v 0)).write (4 * i + 1) (byteOfWord v 1)).write
    (4 * i + 2) (byteOfWord v 2)).write (4 * i + 3) (byteOfWord v 3)

/-- Write bytes at consecutive addresses from `a` on. -/
def Memory.writeBytes (m : Memory) (a : Nat) : List Byte → Memory
  | [] => m
  | v :: bytes => (m.write a v).writeBytes (a + 1) bytes

end Sys2Proof.Machine
end

