-- ==== Sys2Proof/Machine/Operands.lean ====
section
/-!
DEFINITION. The protocol codec (41_protocol_codec.md): the command frames, the byte-order correctors and
the field extractions. Every function is combinational (R92).
-/

namespace Sys2Proof.Machine

/-- `ping_frame()` (R90). -/
def pingFrame : CommandFrame where
  cmd := 0x00
  inLen := 3
  outLen := 1

/-- `data_frame()` (R91). -/
def dataFrame : CommandFrame where
  cmd := 0x14
  inLen := 4
  outLen := 1

/-- The XBUF word that holds a frame's command byte (R59, R84): `zext_32(cmd) << 24`. -/
def commandWord (cmd : Byte) : Word := cmd.zeroExtend 32 <<< 24

/-- `reverse_bytes` (R93). -/
def reverseBytes (x : Word) : Word :=
  x.extractLsb' 0 8 ++ x.extractLsb' 8 8 ++ x.extractLsb' 16 8 ++ x.extractLsb' 24 8

/-- `swap_half_words` (R94). -/
def swapHalfWords (x : Word) : Word := x.extractLsb' 0 16 ++ x.extractLsb' 16 16

/-- `bswap16x2` of R95: the two bytes of each half exchanged. -/
def bswap16x2 (x : Word) : Word :=
  x.extractLsb' 16 8 ++ x.extractLsb' 24 8 ++ x.extractLsb' 0 8 ++ x.extractLsb' 8 8

/-- `decode_length` (R96): full byte reversal in both width modes (C1, D17). -/
def decodeLength (w : Word) : Word := reverseBytes w

/-- `sample16` (R97): the low half of the swapped word, zero-extended (D19). -/
def sample16 (w : Word) : Word := ((swapHalfWords w).extractLsb' 0 16).zeroExtend 32

/-- `sample32` (R98): the word as read. -/
def sample32 (w : Word) : Word := w

/-- The sample a response gives at a width (R118). -/
def sampleOf (width : Width) (w : Word) : Word :=
  match width with
  | .w32 => sample32 w
  | .w16 => sample16 w

/-- `ident` (R99): the first two response bytes (D8). -/
def ident (w : Word) : Half := w.extractLsb' 16 16

/-- `~width_mode` (R105). -/
def otherWidth : Width → Width
  | .w32 => .w16
  | .w16 => .w32

/-- The label at which a handler goes on after its transfer (R87). -/
def returnPhase : ReturnLabel → Phase
  | .i1 => .i1
  | .n1 => .n1
  | .c3 => .c3

/-- The operands of the Idle handler's transfer (R107). -/
def pingTransfer : Transfer where
  frame := pingFrame
  wantStatus := false
  ret := .i1

/-- The operands of the data transfer a `state` calls for: with the status read in Negotiating (R111),
without it in Capturing (R117). No rule issues DATA in Idle; the Negotiating form stands there (log 7). -/
def dataTransfer (st : ProtoState) : Transfer :=
  match st with
  | .capturing => { frame := dataFrame, wantStatus := false, ret := .c3 }
  | .idle | .negotiating | .illegal3 => { frame := dataFrame, wantStatus := true, ret := .n1 }

/-- The operands of the transfer the handler of a `state` starts. -/
def transferFor (st : ProtoState) : Transfer :=
  match st with
  | .idle => pingTransfer
  | .negotiating | .capturing | .illegal3 => dataTransfer st

end Sys2Proof.Machine
end

