-- ==== Sys2Proof/Machine/Parameters.lean ====
section
/-!
DEFINITION. The parameters R7 fixes, the masks and addresses the OPEN ones give, and the legality of a
configuration (00_scope.md R8).
-/

namespace Sys2Proof.Config

/-- `CAP_MAX`, the entries of the capture buffer (R7, fixed). -/
abbrev capMax : Nat := 512

/-- `LEN_MAX`, the largest acceptable length (R7, fixed). -/
abbrev lenMax : Nat := 512

/-- `DELAY_MS`, the inter-transfer delay in milliseconds (R7, fixed). -/
abbrev delayMs : Nat := 1

/-- `ERR_MASK(c)` (R7, R68). -/
def errMask (c : Config) (ch : BitVec 2) : Word :=
  if ch = 0 then c.errMask0 else if ch = 1 then c.errMask1
  else if ch = 2 then c.errMask2 else c.errMask3

/-- The bus address of a port register (20_memory.md R40), 32 bits (log 26). -/
def addr (c : Config) : PortReg → Word
  | .ctrl => c.addrCtrl
  | .stat => c.addrStat

/-- The bus address of XBUF word `k` (20_memory.md R41). That the sum wraps at 32 bits is the model's
choice (log 26). -/
def bufAddr (c : Config) (k : Nat) : Word := c.addrBuf + BitVec.ofNat 32 (4 * k)

/-- How many of the bits below bit `n` are set in `v`. -/
def bitsBelow (v : Word) : Nat → Nat
  | 0 => 0
  | n + 1 => bitsBelow v n + (if v.getLsbD n then 1 else 0)

/-- `popcount`. -/
def popcount (v : Word) : Nat := bitsBelow v 32

/-- The legality constraints of R8; a model refuses a configuration that breaks one. -/
def legal (c : Config) : Bool :=
  c.handheldId != 0
  && popcount c.busyMask == 1
  && popcount c.errMask0 == 4 && popcount c.errMask1 == 4
  && popcount c.errMask2 == 4 && popcount c.errMask3 == 4
  && c.errMask0 &&& c.errMask1 == 0 && c.errMask0 &&& c.errMask2 == 0
  && c.errMask0 &&& c.errMask3 == 0 && c.errMask1 &&& c.errMask2 == 0
  && c.errMask1 &&& c.errMask3 == 0 && c.errMask2 &&& c.errMask3 == 0
  && Nat.ble 1 c.cmdBufWords
  && (match c.pollBound with | none => true | some b => Nat.ble 1 b)

/-- The port addresses are 4-byte aligned, as every access the block makes is (20_memory.md R48). The
spec does not list this among the constraints of R8; a misaligned address makes the access raise
`CapacityExceeded` (log 14). -/
def aligned (c : Config) : Bool :=
  c.addrCtrl.toNat % 4 == 0 && c.addrStat.toNat % 4 == 0 && c.addrBuf.toNat % 4 == 0

end Sys2Proof.Config
end

