-- ==== Sys2Proof/Machine/Flags.lean ====
section
/-!
DEFINITION. The tests the block makes: busy, pending error bits, the length test, and the invariant R32.
The block has no arithmetic flags; these are its status computations.
-/

namespace Sys2Proof.Machine

/-- The channel has pending error bits (R68, R86): `(STAT & ERR_MASK(c)) ≠ 0`. Bits of other channels
are ignored (R112). -/
def errorsPending (c : Config) (stat : Word) : Bool := stat &&& c.errMask c.channel != 0

/-- `length_ok` (R100): `0 < L ≤ 512`, unsigned at 32 bits. -/
def lengthOk (len : Word) : Bool := decide (0 < len.toNat) && decide (len.toNat ≤ Config.lenMax)

/-- The cause of a length that fails the test (R67, R111 N3). -/
def lengthCause (len : Word) : RejectCause := if len = 0 then .lengthZero else .lengthTooLarge

/-- A port address is 4-byte aligned (R48). -/
def isAligned (a : Word) : Bool := a.toNat % 4 == 0

/-- The invariant R32, per `state`. -/
def State.sessionOk (s : State) : Bool :=
  match s.state with
  | .capturing =>
    decide (s.capturedCount.toNat ≤ s.targetLength.toNat) &&
      decide (s.targetLength.toNat ≤ Config.lenMax)
  | .idle | .negotiating => s.capturedCount == 0
  | .illegal3 => true

/-- `polls` has reached the poll bound (R81, R89). Never with no bound. -/
def boundReached (c : Config) (polls : Nat) : Bool :=
  match c.pollBound with
  | none => false
  | some b => decide (b ≤ polls)

/-- A control word with `INLEN` or `OUTLEN` 0 (R70): the spec does not say how the controller reads it. -/
def hasZeroLength (w : Word) : Bool := cwInLen w == 0 || cwOutLen w == 0

/-- Why a word may not be written to CTRL (R70): it is no control word, or it has a zero length. -/
def controlRefusal (w : Word) : Option Refusal :=
  if isControlWord w then if hasZeroLength w then some (.zeroLength w) else none
  else some (.unmodelled (.notControlWord w))

/-- The register as a busy poll reads it: its contents with the busy bit at `BUSY_MASK` (R69). -/
def busyWord (c : Config) (l : Link) : Word :=
  let contents := match c.busyReg with
    | .ctrl => l.ctrl
    | .stat => l.stat
  (contents &&& ~~~c.busyMask) ||| (if l.busy then c.busyMask else 0)

/-- `b <- PortRead(BUSY_REG) & BUSY_MASK; b ≠ 0` (R81, R83). -/
def readsBusy (c : Config) (l : Link) : Bool := busyWord c l &&& c.busyMask != 0

end Sys2Proof.Machine
end

