-- ==== Sys2Proof/Machine/Ops.lean ====
section
/-!
DEFINITION. The shared operations: the updates of the state, the port, buffer and capture-buffer accesses
(40_register_port.md, 20_memory.md), the controller's part in a busy poll (60_exceptions.md R146), the
sink (43_storage_interface.md), raising a fault (R143) and reset (R153). An access that R48 forbids
answers the fault it raises.
-/

namespace Sys2Proof.Machine

/-! ### Updates -/

/-- `phase` moves to a label (R18). -/
def State.goto (s : State) (p : Phase) : State := { s with phase := p }

/-- A line of the transaction trace (R74). -/
def State.record (s : State) (e : Event) : State := { s with trace := e :: s.trace }

/-- `Log(tag, args)` (R132): it changes no block state (R133). -/
def State.log (s : State) (r : LogRecord) : State := s.record (.log r)

/-- The link controller's part of the state changes. -/
def State.setLink (s : State) (l : Link) : State := { s with link := l }

/-- A capture-buffer entry is written (R38). -/
def State.setEntry (s : State) (i : Nat) (v : Word) : State :=
  { s with cbuf := s.cbuf.writeWord i v }

/-! ### Raising a fault, and reset

No condition saves state or vectors anywhere (R143), and there is no return from a trap (R144): a fault
ends only with reset. -/

/-- `raise <Fault>(info)` (R140, R143): the fault register is written and nothing else; the block then
makes no step. -/
def State.raise (s : State) (f : FaultCode) : State := { s with fault := some f }

/-- A checked step: it raises the fault its access answers, and then writes nothing else (R142). -/
def finish (s : State) (r : Except FaultCode State) : Result :=
  match r with
  | .ok t => .next t
  | .error f => .next (s.raise f)

/-- The host terminates the block and starts it again (R134, R153): every block register takes its reset
value and `sink_first` is true again. The block writes nothing to the link controller, whose registers are
then a draw, and nothing to the sink's object (R155). The other agents and the records go on (log 15). -/
def State.hostReset (s : State) (r : Restart) : State :=
  { State.resetWith r.cfg with
    link := r.link
    sink := { first := true, obj := s.sink.obj }
    env := s.env
    trace := s.trace
    freeDraws := s.freeDraws }

/-! ### Port and buffer transactions (R77) -/

/-- The fault of an access to a misaligned address (R48). -/
def misaligned (a : Word) : FaultCode := .capacityExceeded a.toNat

/-- What a write to a port register does: CTRL takes the control word and, where its START bit is 1, the
controller becomes busy (R49, R80). R80 presumes that it is not busy; what a write does while it still is,
the spec does not say, and here CTRL is overwritten and the controller stays busy until its next answer
(log 27). A write to STAT is recorded, its effect on the controller is the controller's own business (R79,
log 18). -/
def Link.written (l : Link) (r : PortReg) (v : Word) : Link :=
  match r with
  | .ctrl => { l with ctrl := v, busy := l.busy || v.getLsbD 0 }
  | .stat => { l with statWritten := v }

/-- The trace line of a port write (R74). -/
def portWriteEvent (r : PortReg) (v : Word) : Event :=
  match r with
  | .ctrl => .wCtrl v
  | .stat => .wStat v

/-- `PortWrite(reg, v)` (R10, R48). -/
def portWrite (r : PortReg) (v : Word) (s : State) : Except FaultCode State :=
  if isAligned (s.cfg.addr r) then
    .ok ((s.setLink (s.link.written r v)).record (portWriteEvent r v))
  else .error (misaligned (s.cfg.addr r))

/-- `PortRead(STAT)` (R86): the status word and the state with the read recorded. A read has no side
effect (R50). -/
def statRead (s : State) : Except FaultCode (Word × State) :=
  if isAligned s.cfg.addrStat then .ok (s.link.stat, s.record (.rStat s.link.stat))
  else .error (misaligned s.cfg.addrStat)

/-- `PortClearErr(c)` (R82): the channel's error bits read 0; the other channels' bits are unchanged. -/
def portClearErr (c : BitVec 2) (s : State) : State :=
  (s.setLink { s.link with stat := s.link.stat &&& ~~~s.cfg.errMask c }).record (.clr c)

/-- The checks of an XBUF access (R41, R48). -/
def bufFault (c : Config) (k : Nat) : Option FaultCode :=
  if c.cmdBufWords ≤ k then some (.capacityExceeded k)
  else if isAligned (c.bufAddr k) then none
  else some (misaligned (c.bufAddr k))

/-- `BufWrite(k, v)` (R10, R84). -/
def bufWrite (k : Nat) (v : Word) (s : State) : Except FaultCode State :=
  match bufFault s.cfg k with
  | some f => .error f
  | none => .ok ((s.setLink { s.link with xbuf := s.link.xbuf.writeWord k v }).record (.wb k v))

/-- `BufRead(k)` (R10, R85). -/
def bufRead (k : Nat) (s : State) : Except FaultCode (Word × State) :=
  match bufFault s.cfg k with
  | some f => .error f
  | none => .ok (s.link.xbuf.readWord k, s.record (.rb k (s.link.xbuf.readWord k)))

/-- The bytes of XBUF that a transfer writes, from address 0 on: those of the words into which its INLEN
response bytes go (R58), and no word past CMD_BUF_WORDS (R41, log 24). -/
def Link.receiveSpan (l : Link) (c : Config) : Nat :=
  4 * min (((cwInLen l.ctrl).toNat + 3) / 4) c.cmdBufWords

/-- What the controller writes above XBUF word 0 at the end of a transfer. -/
def Link.received (l : Link) (c : Config) (a : XferAnswer) : List Byte :=
  a.more.take (l.receiveSpan c - 4)

/-- The controller at the end of a transfer (R43, R58, R80, R146): not busy, STAT and XBUF word 0 as the
answer has them, and so the words above it that hold response bytes. The bytes of a word that were not
received are draws too (R43, R146). -/
def Link.answered (l : Link) (c : Config) (a : XferAnswer) : Link :=
  { l with
    busy := false
    stat := a.stat
    xbuf := (l.xbuf.writeWord 0 a.resp).writeBytes 4 (l.received c a) }

/-- The controller's part in a busy poll (R146): while a transfer is in progress it answers busy as often
as its answer says, then ends the transfer, writing STAT and XBUF before the poll that reads not busy (R52). With no answer it stays busy; with no transfer in progress it changes nothing. -/
def controllerPoll (s : State) : State :=
  match s.link.busy, s.env.xfers with
  | true, a :: rest =>
    match a.busyPolls with
    | 0 =>
      { s with
        link := s.link.answered s.cfg a
        env := { s.env with xfers := rest } }
    | n + 1 => { s with env := { s.env with xfers := { a with busyPolls := n } :: rest } }
  | true, [] => s
  | false, _ => s

/-- One busy poll, `PortRead(BUSY_REG) & BUSY_MASK` (R83): whether it reads busy. -/
def pollBusy (s : State) : Except FaultCode (Bool × State) :=
  if isAligned (s.cfg.addr s.cfg.busyReg) then
    let t := controllerPoll s
    let b := readsBusy t.cfg t.link
    .ok (b, t.record (.rBusy b))
  else .error (misaligned (s.cfg.addr s.cfg.busyReg))

/-! ### The capture buffer -/

/-- `MemWrite(CBUF, i, 4, v)` (R38, R48): the index is checked before the store (R142). -/
def memWrite (i : Nat) (v : Word) (s : State) : Except FaultCode State :=
  if i < Config.capMax then .ok ((s.setEntry i v).record (.cb i v))
  else .error (.capacityExceeded i)

/-- `MemRead(CBUF, i, 4)` (R38). -/
def State.entry (s : State) (i : Nat) : Word := s.cbuf.readWord i

/-! ### The storage sink -/

/-- The sample of a CBUF entry at a width (R126), as its bytes (R131). -/
def sampleBytes (order : ByteOrder) (width : Width) (entry : Word) : List Byte :=
  let bytes := match width with
    | .w32 => bytesOfWord entry
    | .w16 => [byteOfWord entry 2, byteOfWord entry 3]
  match order with
  | .big => bytes
  | .little => bytes.reverse

/-- `bytes(s)` of `Persist(n, w)` (R126, R131): entries 0 to n-1 in index order. -/
def persistBytes (order : ByteOrder) (width : Width) (m : Memory) (n : Nat) : List Byte :=
  (List.range n).flatMap fun i => sampleBytes order width (m.readWord i)

/-- The reference sink at one Persist (R127, R128, R129): opened, it truncates or appends; not opened, it
writes no byte. -/
def Sink.persisted (k : Sink) (c : Config) (opens : Bool) (bytes : List Byte) : Sink :=
  if opens then { first := false, obj := if k.first then bytes else k.obj ++ bytes }
  else { k with first := k.first && !c.sinkFirstOnFail }

end Sys2Proof.Machine
end

