-- ==== Sys2Proof/Machine/Transfer.lean ====
section
/-!
DEFINITION. The transfer (40_register_port.md R87), label by label, and the two command frames PING and
DATA. A command is an operation of several atomic steps (R11): each `exec` of it performs the step of the
label the transfer stands at, and moves `phase` to the next label (R18); outside a transfer it enters one.
-/

namespace Sys2Proof.Machine

/-- T1, `clear_error_bits` (R82). -/
def clearErrorsStep (x : Transfer) (s : State) : Result :=
  .next ((portClearErr s.cfg.channel s).goto (.transfer .t2 x))

/-- T2, `write_buffer` (R84). `configure_transfer` then computes its control word (R78). -/
def writeCommandStep (x : Transfer) (s : State) : Result :=
  finish s ((bufWrite 0 (commandWord x.frame.cmd) s).map fun t =>
    t.goto (.transfer (.t3 (controlWord s.cfg.channel x.frame.inLen x.frame.outLen)) x))

/-- T3, the sentinel write (R79). -/
def sentinelStep (cw : Word) (x : Transfer) (s : State) : Result :=
  finish s ((portWrite .stat s.cfg.sentinel s).map fun t => t.goto (.transfer (.t4 cw) x))

/-- The state after the control-word write of T4: `polls <- 0` (R87). -/
def startPolls (x : Transfer) (t : State) : State :=
  { t with polls := 0, phase := .transfer .t5 x }

/-- T4, the control-word write (R80). A word that R70 gives no meaning is refused before anything is
written (log 9). -/
def controlWriteStep (cw : Word) (x : Transfer) (s : State) : Result :=
  match controlRefusal cw with
  | some why => .refused why
  | none => finish s ((portWrite .ctrl cw s).map (startPolls x))

/-- A poll that read busy (R81): with a bound, `polls` counts it; the block stays at T5. -/
def countPoll (t : State) : State :=
  match t.cfg.pollBound with
  | none => t
  | some _ => { t with polls := t.polls + 1 }

/-- T5, `wait_idle` (R81): one busy poll (R83). Where the polls before have reached the bound, `LinkStall`
is raised instead, a step of its own that writes the fault register only (R11, R89, R143, log 12). -/
def pollStep (x : Transfer) (s : State) : Result :=
  if boundReached s.cfg s.polls then .next (s.raise (.linkStall s.cfg.channel))
  else finish s ((pollBusy s).map fun (b, t) =>
    if b then countPoll (t.goto (.transfer .t5 x)) else t.goto (.transfer .t6 x))

/-- T6, the status read, only where the transfer wants it (R86). -/
def statusStep (x : Transfer) (s : State) : Result :=
  if x.wantStatus then
    finish s ((statRead s).map fun (v, t) => { t with tStat := v, phase := .transfer .t7 x })
  else .next (s.goto (.transfer .t7 x))

/-- T7, `read_buffer` (R85), and the return to the handler (R87). -/
def responseStep (x : Transfer) (s : State) : Result :=
  finish s ((bufRead 0 s).map fun (v, t) => { t with tResp := v, phase := returnPhase x.ret })

/-- The step of a transfer at a label (R87). -/
def transferStep (l : TransferLabel) (x : Transfer) (s : State) : Result :=
  match l with
  | .t1 => clearErrorsStep x s
  | .t2 => writeCommandStep x s
  | .t3 cw => sentinelStep cw x s
  | .t4 cw => controlWriteStep cw x s
  | .t5 => pollStep x s
  | .t6 => statusStep x s
  | .t7 => responseStep x s

/-- The operands of the transfer `x` in progress as the command `x0` has them: `x0`'s frame and
`want_status`, and the return label of the handler that started the transfer (R18). -/
def Transfer.forCommand (x x0 : Transfer) : Transfer := { x0 with ret := x.ret }

/-- One atomic step of `Transfer(f, want_status)` for the command with operands `x0`: inside a transfer,
the step of its label; outside, the entry into the transfer at T1 (log 7). -/
def commandStep (x0 : Transfer) (s : State) : Result :=
  match s.phase with
  | .transfer l x => transferStep l (x.forCommand x0) s
  | .k0 | .k1 | .k2 _ | .k3 | .i0 | .i1 | .i2 _ | .n0 | .n1 | .n2 | .n3 _ | .n4 _
  | .c0 | .c1 | .c2 | .c3 | .c4 | .c5 | .c6 | .c7
  | .n4State _ | .c7State | .emit _ => .next (s.goto (.transfer .t1 x0))

/-- PING: one step of `Transfer(ping_frame(), want_status = false)` (R75, R90, R107). Only the Idle handler
issues it, and it returns to that handler's I1; a PING entered in another state, where no rule issues it, has
the same return label (log 7). -/
def execPing (s : State) : Result := commandStep pingTransfer s

/-- DATA: one step of `Transfer(data_frame(), want_status)` (R75, R91), with `want_status` true in
Negotiating (R111) and false in Capturing (R117). -/
def execData (s : State) : Result := commandStep (dataTransfer s.state) s

end Sys2Proof.Machine
end

