-- ==== Sys2Proof/Machine/ControlWords.lean ====
section
/-!
DEFINITION. The control words: `configure_transfer` (40_register_port.md R78) in its two atomic steps, the
sentinel write (R79) and, at T4, the control-word write (R80). One meaning for each row of the table.
-/

namespace Sys2Proof.Machine

/-- The transfer in progress, or the one the handler of the present `state` starts (log 8). -/
def State.transferOp (s : State) : Transfer :=
  match s.phase with
  | .transfer _ x => x
  | .k0 | .k1 | .k2 _ | .k3 | .i0 | .i1 | .i2 _ | .n0 | .n1 | .n2 | .n3 _ | .n4 _
  | .c0 | .c1 | .c2 | .c3 | .c4 | .c5 | .c6 | .c7
  | .n4State _ | .c7State | .emit _ => transferFor s.state

/-- The block stands at T4: the sentinel is written and the control word is next (R79, R80). -/
def State.sentinelDone (s : State) : Bool :=
  match s.phase with
  | .transfer (.t4 _) _ => true
  | .transfer .t1 _ | .transfer .t2 _ | .transfer (.t3 _) _ | .transfer .t5 _
  | .transfer .t6 _ | .transfer .t7 _ => false
  | .k0 | .k1 | .k2 _ | .k3 | .i0 | .i1 | .i2 _ | .n0 | .n1 | .n2 | .n3 _ | .n4 _
  | .c0 | .c1 | .c2 | .c3 | .c4 | .c5 | .c6 | .c7
  | .n4State _ | .c7State | .emit _ => false

/-- One atomic step of `configure_transfer(channel, in_len, out_len)` (R78): at T4 the control-word write,
at any other label the sentinel write that comes before it. -/
def configureTransfer (channel : BitVec 2) (inLen outLen : BitVec 7) (s : State) : Result :=
  if s.sentinelDone then controlWriteStep (controlWord channel inLen outLen) s.transferOp s
  else sentinelStep (controlWord channel inLen outLen) s.transferOp s

/-- CONTROL_WORD (R60, R61, R78). -/
def execControlWord (channel : BitVec 2) (inLen outLen : BitVec 7) (s : State) : Result :=
  configureTransfer channel inLen outLen s

/-- CW_PING_CH0, 0x01010381 (R62). -/
def execCwPingCh0 (s : State) : Result := configureTransfer 0 3 1 s

/-- CW_PING_CH1, 0x03010383 (R62). -/
def execCwPingCh1 (s : State) : Result := configureTransfer 1 3 1 s

/-- CW_PING_CH2, 0x05010385 (R62). -/
def execCwPingCh2 (s : State) : Result := configureTransfer 2 3 1 s

/-- CW_PING_CH3, 0x07010387 (R62). -/
def execCwPingCh3 (s : State) : Result := configureTransfer 3 3 1 s

/-- CW_DATA_CH0, 0x01010481 (R62). -/
def execCwDataCh0 (s : State) : Result := configureTransfer 0 4 1 s

/-- CW_DATA_CH1, 0x03010483 (R62). -/
def execCwDataCh1 (s : State) : Result := configureTransfer 1 4 1 s

/-- CW_DATA_CH2, 0x05010485 (R62). -/
def execCwDataCh2 (s : State) : Result := configureTransfer 2 4 1 s

/-- CW_DATA_CH3, 0x07010487 (R62). -/
def execCwDataCh3 (s : State) : Result := configureTransfer 3 4 1 s

end Sys2Proof.Machine
end

