-- ==== Sys2Proof/Machine/Dispatch.lean ====
section
/-!
DEFINITION. The dispatch of the instructions of the opcode table to their meanings.
-/

namespace Sys2Proof.Machine

/-- One atomic step of an instruction (R11). -/
def exec (i : Instr) (s : State) : Host.Outcome State Fault Refusal :=
  match i with
  | .ping => Sys2Proof.Machine.execPing s
  | .data => Sys2Proof.Machine.execData s
  | .controlWord c n o => Sys2Proof.Machine.execControlWord c n o s
  | .cwPingCh0 => Sys2Proof.Machine.execCwPingCh0 s
  | .cwPingCh1 => Sys2Proof.Machine.execCwPingCh1 s
  | .cwPingCh2 => Sys2Proof.Machine.execCwPingCh2 s
  | .cwPingCh3 => Sys2Proof.Machine.execCwPingCh3 s
  | .cwDataCh0 => Sys2Proof.Machine.execCwDataCh0 s
  | .cwDataCh1 => Sys2Proof.Machine.execCwDataCh1 s
  | .cwDataCh2 => Sys2Proof.Machine.execCwDataCh2 s
  | .cwDataCh3 => Sys2Proof.Machine.execCwDataCh3 s

end Sys2Proof.Machine
end

