-- ==== Sys2Proof/Machine/Fetch.lean ====
section
/-!
DEFINITION. Which instruction the block stands at. The block fetches nothing from memory (R55): its
sequencer issues the command frame of the handler and the control word of `configure_transfer`. Here the
bytes of the issued word are read off the phase, and a word is put there to be issued.
-/

namespace Sys2Proof.Machine

/-- The bytes the block issues at a phase: the command byte of the frame at a transfer's labels and where
a handler starts its transfer (R107, R111, R117), the control word at T3 and T4 (R78); at every other
label the sequencer takes a step of its own. -/
def fetch (p : Phase) : Option (List Byte) :=
  match p with
  | .transfer (.t3 cw) _ | .transfer (.t4 cw) _ => some (bytesOfWord cw)
  | .transfer .t1 x | .transfer .t2 x | .transfer .t5 x | .transfer .t6 x | .transfer .t7 x =>
    some [x.frame.cmd]
  | .i0 => some [pingFrame.cmd]
  | .n0 | .c2 => some [dataFrame.cmd]
  | .k0 | .k1 | .k2 _ | .k3 | .i1 | .i2 _ | .n1 | .n2 | .n3 _ | .n4 _
  | .c0 | .c1 | .c3 | .c4 | .c5 | .c6 | .c7
  | .n4State _ | .c7State | .emit _ => none

/-- The phase at which a table word is the one issued next: T1 of a transfer whose frame has the command
byte, or T3 with the control word (log 16). -/
def loadPhase (s : State) (nbits w : Nat) : Phase :=
  if nbits ≤ 8 then
    let b : Byte := BitVec.ofNat 8 w
    let x := if b = pingFrame.cmd then pingTransfer else dataTransfer s.state
    .transfer .t1 { x with frame := { x.frame with cmd := b } }
  else .transfer (.t3 (BitVec.ofNat 32 w)) s.transferOp

/-- The host's next input without a restart: a reset would come before the block's step. -/
def keepRunning (host : List HostInput) : List HostInput :=
  match host with
  | [] => []
  | h :: rest => { h with restart := none } :: rest

/-- The state with a table word placed where the next step issues it, and the block able to step. -/
def State.loadWord (s : State) (nbits w : Nat) : State :=
  { s with
    phase := loadPhase s nbits w
    halted := false
    fault := none
    env := { s.env with host := keepRunning s.env.host } }

end Sys2Proof.Machine
end

