-- ==== Sys2Proof/Machine/Handlers.lean ====
section
/-!
DEFINITION. The handlers of 42_capture_fsm.md: Idle (R107), Negotiating (R111) and Capturing (R117), label
by label, without the transfers they start.
-/

namespace Sys2Proof.Machine

/-- The end of a handler: the block goes back to K0 (R101). -/
def State.endTick (s : State) : State := s.goto .k0

/-! ### Log records -/

/-- The label that follows the `Log` of a record: the record is the last primitive of its label (R101, R107,
R111, R117). That the record of a Persist stands between C6 and C7 is log 28. -/
def afterLog (r : LogRecord) : Phase :=
  match r with
  | .modeSwitch _ => .k3
  | .captureComplete _ | .storageUnavailable => .c7
  | .deviceDetected _ | .unrecognizedDevice _ | .captureSize _ | .negRejected _ | .exit => .k0

/-- `Log(tag, args)`, a step of its own (R11, R132, R133). -/
def logStep (r : LogRecord) (s : State) : Result := .next ((s.log r).goto (afterLog r))

/-! ### Idle -/

/-- I1: `id <- ident(t_resp)` (R107). -/
def identStep (s : State) : Result := .next (s.goto (.i2 (ident s.tResp)))

/-- I2: the transition to Negotiating (R109), the notice of another device (R110), or silence (R108). The
registers of R109 are one step: in Idle `device_id` holds its reset value (R34, log 28). -/
def identifyStep (id : Half) (s : State) : Result :=
  if id = s.cfg.handheldId then
    .next { s with deviceId := id, state := .negotiating, phase := .emit (.deviceDetected id) }
  else if id ≠ 0 then .next (s.goto (.emit (.unrecognizedDevice id)))
  else .next s.endTick

/-! ### Negotiating -/

/-- R115: a rejected negotiation writes no session register. Its log record may be emitted or not; which
of the two is the free value (U11, log 5). -/
def reject (cause : RejectCause) (s : State) : Result :=
  .next { s with
    freeDraws := s.freeDraws + 1
    phase := if Config.negRejectedLogged s.freeDraws then .emit (.negRejected cause) else .k0 }

/-- N1: the error test, before the length test (R112). -/
def errorTestStep (s : State) : Result :=
  if errorsPending s.cfg s.tStat then reject .errorBits s else .next (s.goto .n2)

/-- N2: `L <- reverse_bytes(t_resp)` (R111, R113). -/
def decodeLengthStep (s : State) : Result := .next (s.goto (.n3 (decodeLength s.tResp)))

/-- N3: the length test (R111). -/
def lengthTestStep (len : Word) (s : State) : Result :=
  if lengthOk len then .next (s.goto (.n4 len)) else reject (lengthCause len) s

/-- N4: `target_length <- L[9:0]` (R114). -/
def acceptStep (len : Word) (s : State) : Result :=
  .next { s with targetLength := len.extractLsb' 0 10, phase := .n4State len }

/-- N4: `state <- Capturing`, and its record is next (R114). -/
def enterCaptureStep (len : Word) (s : State) : Result :=
  .next { s with state := .capturing, phase := .emit (.captureSize len) }

/-! ### Capturing -/

/-- C0: the width is latched for the whole capture (R116). -/
def latchWidthStep (s : State) : Result :=
  .next { s with capWidth := s.widthMode, phase := .c1 }

/-- C1: the loop test (R117). -/
def loopTestStep (s : State) : Result :=
  if s.capturedCount.toNat < s.targetLength.toNat then .next (s.goto .c2) else .next (s.goto .c6)

/-- C3: the sample store (R118). -/
def storeStep (s : State) : Result :=
  finish s ((memWrite s.capturedCount.toNat (sampleOf s.capWidth s.tResp) s).map fun t => t.goto .c4)

/-- C4: `captured_count <- captured_count + 1` (R119). -/
def countStep (s : State) : Result :=
  .next { s with capturedCount := s.capturedCount + 1, phase := .c5 }

/-- The timer's reading of the delay's elapsed time, and the readings that follow: with none queued, the
delay is granted (R73), at its lower bound (log 20). -/
def timerReading (s : State) : Nat × List Nat :=
  match s.env.timer with
  | [] => (Config.delayMs, [])
  | ms :: rest => (ms, rest)

/-- C5, `Delay(DELAY_MS)` (R120, R147): the block holds until at least 1 ms has passed. The line DELAY of the
trace is recorded when the hold ends, so a delay that a restart cuts off leaves none (log 20). -/
def delayStep (s : State) : Result :=
  let t := { s with env := { s.env with timer := (timerReading s).2 } }
  if Config.delayMs ≤ (timerReading s).1 then .next ((t.record (.delay Config.delayMs)).goto .c1)
  else .next t

/-- The record of a Persist's answer (R121, R122). -/
def persistLog (opens : Bool) (n : BitVec 10) : LogRecord :=
  if opens then .captureComplete n else .storageUnavailable

/-- The state after the sink has answered Persist at C6 (R125, R127, R128). -/
def State.persisted (s : State) (opens : Bool) (rest : List Bool) : State :=
  let bytes := persistBytes s.cfg.sinkByteOrder s.capWidth s.cbuf s.targetLength.toNat
  { s with
    sink := s.sink.persisted s.cfg opens bytes
    env := { s.env with sink := rest } }.record (.persist s.targetLength s.capWidth opens)

/-- C6, `Persist(target_length, cap_width)` (R121, R125): the block holds until the sink answers, and the
record of the answer is next (R121, R122, log 28). Entries past the capacity do not exist (R48). -/
def persistStep (s : State) : Result :=
  if s.targetLength.toNat ≤ Config.capMax then
    match s.env.sink with
    | [] => .next s
    | opens :: rest => .next 
      ((s.persisted opens rest).goto (.emit (persistLog opens s.targetLength)))
  else .next (s.raise (.capacityExceeded Config.capMax))

/-- C7: `captured_count <- 0`, whatever the sink answered (R121, R122). -/
def countResetStep (s : State) : Result := .next { s with capturedCount := 0, phase := .c7State }

/-- C7: `state <- Negotiating` (R121, R122). -/
def sessionEndStep (s : State) : Result := .next ({ s with state := .negotiating }.endTick)

end Sys2Proof.Machine
end

