-- ==== Sys2Proof/Machine/Tick.lean ====
section
/-!
DEFINITION. The tick (42_capture_fsm.md sections 1 and 2): labels K0 to K3 of R101.
-/

namespace Sys2Proof.Machine

/-- Input events are latched; a latch already set stays set, so repeats merge (R31). -/
def State.latch (s : State) (exit toggle : Bool) : State :=
  { s with pendExit := s.pendExit || exit, pendToggle := s.pendToggle || toggle }

/-- The other agents once a tick is granted (R73): the answers are the tick's own, and those that the tick
before did not consume are counted as unused. -/
def Env.granted (v : Env) (g : Tick) (rest : List Tick) : Env :=
  { v with
    ticks := rest
    xfers := g.xfers
    sink := g.sink
    unused := v.unused + v.xfers.length + v.sink.length }

/-- K0, `WaitTick()` (R102): the block holds until the tick source grants; the events that stand with the
grant were latched before it (R73). -/
def waitTick (s : State) : Result :=
  match s.env.ticks with
  | [] => .next s
  | g :: rest =>
    .next { s.latch g.events.exit g.events.toggle with env := s.env.granted g rest, phase := .k1 }

/-- `PollInput()` (R103): the latched events, and the state with the latches cleared. -/
def pollInput (s : State) : Events × State :=
  ({ exit := s.pendExit, toggle := s.pendToggle },
    { s with pendExit := false, pendToggle := false })

/-- K1: the poll, only in Idle and Negotiating ticks (R101, R106). -/
def pollInputStep (s : State) : Result :=
  match s.state with
  | .idle | .negotiating => .next ((pollInput s).2.goto (.k2 (pollInput s).1))
  | .capturing | .illegal3 => .next (s.goto (.k2 { exit := false, toggle := false }))

/-- K2: RequestExit halts the block (R104) and wins over ToggleWidth, which inverts the width mode and then
logs it (R105). LOG EXIT stands in the step that halts, because a halted block makes no further step (R25,
log 28). -/
def eventsStep (ev : Events) (s : State) : Result :=
  if ev.exit then .next ({ s.log .exit with halted := true }.record .halt)
  else if ev.toggle then
    .next { s with
      widthMode := otherWidth s.widthMode
      phase := .emit (.modeSwitch (otherWidth s.widthMode)) }
  else .next (s.goto .k3)

/-- K3: the handler of the present `state`; the value 3 raises `IllegalState(3)` (R101, R141). -/
def dispatchStep (s : State) : Result :=
  match s.state with
  | .idle => .next (s.goto .i0)
  | .negotiating => .next (s.goto .n0)
  | .capturing => .next (s.goto .c0)
  | .illegal3 => .next (s.raise (.illegalState ProtoState.illegal3.code))

end Sys2Proof.Machine
end

