-- ==== Sys2Proof/Machine/Block.lean ====
section
/-!
DEFINITION. The block's own step: the sequencer's labels (R101, R107, R111, R117), the instruction issued
at a phase, the conditions in which the block has no step, and the inputs that land before it.
-/

namespace Sys2Proof.Machine

/-- A step of the sequencer at a label that issues no instruction. -/
def sequencerStep (s : State) : Result :=
  match s.phase with
  | .k0 => waitTick s
  | .k1 => pollInputStep s
  | .k2 ev => eventsStep ev s
  | .k3 => dispatchStep s
  | .i1 => identStep s
  | .i2 id => identifyStep id s
  | .n1 => errorTestStep s
  | .n2 => decodeLengthStep s
  | .n3 len => lengthTestStep len s
  | .n4 len => acceptStep len s
  | .c0 => latchWidthStep s
  | .c1 => loopTestStep s
  | .c3 => storeStep s
  | .c4 => countStep s
  | .c5 => delayStep s
  | .c6 => persistStep s
  | .c7 => countResetStep s
  | .n4State len => enterCaptureStep len s
  | .c7State => sessionEndStep s
  | .emit r => logStep r s
  -- an instruction is issued at these labels, so `runPhase` does not come here
  | .i0 => .next s
  | .n0 => .next s
  | .c2 => .next s
  | .transfer _ _ => .next s

/-- The step at the present phase: the instruction whose bytes are issued there, or the sequencer's own
step. Bytes that are no instruction are refused (R70, R88). -/
def runPhase (s : State) : Result :=
  match fetch s.phase with
  | none => sequencerStep s
  | some bytes =>
    match decode bytes with
    | .ok i => exec i s
    | .error e => .refused (.unmodelled e)

/-- A step that would reach a state that breaks R32 raises `InvariantViolation` and writes nothing else
(R32, R141, R142). A step that raises a fault of its own reaches no new session state, and its fault
stands (R48, R142, log 13). -/
def guardInvariant (s : State) (r : Result) : Result :=
  match r with
  | .next t => if t.sessionOk || t.fault.isSome then .next t else .next (s.raise .invariantViolation)
  | .fault f => .fault f
  | .refused why => .refused why

/-- The block's step: none with an illegal configuration (R8), none once faulted (R26) or halted (R25). A
halted block is the normal end of a run (R168): the other agents go on, the block stands. -/
def blockStep (s : State) : Result :=
  if s.cfg.legal then
    match s.fault with
    | some f => .fault (.stopped f)
    | none => if s.halted then .next s else guardInvariant s (runPhase s)
  else .refused .illegalConfiguration

/-- What the host does before a step, with the state as its events leave it: the events are latched
(R31), and a restart comes with its configuration and its draw (R134, R155). -/
def hostInput (s : State) : Option Restart × State :=
  match s.env.host with
  | [] => (none, s)
  | h :: rest =>
    (h.restart, { s.latch h.exit h.toggle with env := { s.env with host := rest } })

/-- One step of the machine: the host's input lands, then the block is reset or takes its step. A restart is
taken whatever its configuration is, also out of an illegal one, and an illegal configuration is refused at
the next step (R8, log 29). -/
def machineStep (s : State) : Result :=
  match (hostInput s).1 with
  | some r => .next ((hostInput s).2.hostReset r)
  | none => blockStep (hostInput s).2

end Sys2Proof.Machine
end

