-- ==== Sys2Proof/Machine/Step.lean ====
section
/-!
DEFINITION. One step of the machine, and where the host places an instruction to be issued next.
-/

namespace Sys2Proof.Machine

/-- One step (R11). -/
def step (s : State) : Host.Outcome State Fault Refusal := machineStep s

/-- `s` with the instruction word `w` placed where the next step issues it. The block's program is fixed
in its sequencer (R154); this stands for the sequencer having come to that word (log 16). -/
def State.withFetchWord (s : State) (nbits w : Nat) : State := s.loadWord nbits w

end Sys2Proof.Machine
end

