-- ==== Sys2Proof/Safety.lean ====
section
/-!
DEFINITION. What the spec says of every state the block reaches: the invariants of 10_state.md section 5
and what each label presumes. The claims about whole runs are stated with these.
-/

namespace Sys2Proof.Machine

/-- The host restarts the block, if at all, with a configuration the platform may provide (R156): legal
(R8), with aligned port addresses (R48), and with any XBUF of the configuration's size (R41, R155), in
canonical form. -/
def HostInput.allowed (h : HostInput) : Bool :=
  match h.restart with
  | none => true
  | some r => r.cfg.legal && r.cfg.aligned && r.link.xbuf.wf &&
    r.link.xbuf.below (4 * r.cfg.cmdBufWords)

/-- The session registers by `state`: in Idle they hold their reset values (R34); once a device is
identified `device_id` is HANDHELD_ID (R20), and a capture has a length of 1 to 512 (R21). -/
def State.registersOk (s : State) : Bool :=
  match s.state with
  | .idle => s.deviceId == 0 && s.targetLength == 0 && s.capWidth == s.cfg.initialWidth
  | .negotiating => s.deviceId == s.cfg.handheldId
  | .capturing => s.deviceId == s.cfg.handheldId && Nat.ble 1 s.targetLength.toNat
  | .illegal3 => false

/-- The capture loop's condition: Capturing, the width latched (R33). -/
def State.inLoop (s : State) : Bool := s.state == .capturing && s.capWidth == s.widthMode

/-- There is a sample still to capture. -/
def State.moreSamples (s : State) : Bool :=
  decide (s.capturedCount.toNat < s.targetLength.toNat)

/-- What holds at the labels of a transfer for the handler that started it (R107, R111, R117). -/
def State.transferOk (s : State) (x : Transfer) : Bool :=
  match x.ret with
  | .i1 => s.state == .idle && x == pingTransfer
  | .n1 => s.state == .negotiating && x == dataTransfer .negotiating
  | .c3 => s.inLoop && s.moreSamples && x == dataTransfer .capturing

/-- What holds at one label of a transfer: the control word in flight is the one of the channel and the
frame (R78), and the bound is reached only while the controller is busy (R89). -/
def State.labelOk (s : State) (l : TransferLabel) (x : Transfer) : Bool :=
  match l with
  | .t3 cw | .t4 cw => cw == controlWord s.cfg.channel x.frame.inLen x.frame.outLen
  | .t5 => !boundReached s.cfg s.polls || s.link.busy
  | .t1 | .t2 | .t6 | .t7 => true

/-- What holds before the `Log` of a record, which is what the label after it presumes: C7 after the record of
a Persist, else K3 or K0. -/
def State.emitOk (s : State) (r : LogRecord) : Bool :=
  match r with
  | .captureComplete _ | .storageUnavailable => s.inLoop && s.capturedCount == s.targetLength
  | .modeSwitch _ | .deviceDetected _ | .unrecognizedDevice _ | .captureSize _ | .negRejected _ | .exit =>
    s.capturedCount == 0

/-- What each label presumes of the registers (42_capture_fsm.md); at K2 of a Capturing tick no event was
polled (R106). -/
def State.phaseOk (s : State) : Bool :=
  match s.phase with
  | .k0 | .k1 | .k3 => s.capturedCount == 0
  | .k2 ev => s.capturedCount == 0 && (s.state != .capturing || !(ev.exit || ev.toggle))
  | .i0 | .i1 => s.state == .idle
  | .i2 id => s.state == .idle && id == ident s.tResp
  | .n0 | .n1 => s.state == .negotiating
  | .n2 => s.state == .negotiating && !errorsPending s.cfg s.tStat
  | .n3 len => s.state == .negotiating && !errorsPending s.cfg s.tStat && len == decodeLength s.tResp
  | .n4 len =>
    s.state == .negotiating && !errorsPending s.cfg s.tStat && len == decodeLength s.tResp && lengthOk len
  | .c0 => s.state == .capturing && s.capturedCount == 0
  | .c1 | .c5 => s.inLoop
  | .c2 | .c3 | .c4 => s.inLoop && s.moreSamples
  | .c6 | .c7 => s.inLoop && s.capturedCount == s.targetLength
  | .n4State len =>
    s.state == .negotiating && !errorsPending s.cfg s.tStat && len == decodeLength s.tResp && lengthOk len &&
      s.targetLength == len.extractLsb' 0 10
  | .c7State => s.inLoop && s.capturedCount == 0
  | .emit r => s.emitOk r
  | .transfer l x => s.transferOk x && s.labelOk l x

/-- The memories are in canonical form, CBUF within its 512 entries (R38), XBUF within its CMD_BUF_WORDS
words (R41). -/
def State.memoryOk (s : State) : Bool :=
  s.cbuf.wf && s.cbuf.below (4 * Config.capMax) && s.link.xbuf.wf &&
    s.link.xbuf.below (4 * s.cfg.cmdBufWords)

/-- The invariant of the machine. -/
structure State.Inv (s : State) : Prop where
  legal : s.cfg.legal = true
  aligned : s.cfg.aligned = true
  host : s.env.host.all HostInput.allowed = true
  session : s.sessionOk = true
  registers : s.registersOk = true
  phase : s.phaseOk = true
  memory : s.memoryOk = true

/-- The block stands at a busy poll (label T5). -/
def Phase.isPolling (p : Phase) : Bool :=
  match p with
  | .transfer .t5 _ => true
  | .transfer .t1 _ | .transfer .t2 _ | .transfer (.t3 _) _ | .transfer (.t4 _) _
  | .transfer .t6 _ | .transfer .t7 _ => false
  | .k0 | .k1 | .k2 _ | .k3 | .i0 | .i1 | .i2 _ | .n0 | .n1 | .n2 | .n3 _ | .n4 _
  | .c0 | .c1 | .c2 | .c3 | .c4 | .c5 | .c6 | .c7
  | .n4State _ | .c7State | .emit _ => false

/-- The controller is busy only while the block polls it, so no control word is written while it is busy
(R88). -/
def State.busyOnlyPolling (s : State) : Bool := !s.link.busy || s.phase.isPolling

/-- The host does not restart the block before the next step. -/
def State.noRestart (s : State) : Bool := (hostInput s).1.isNone

/-- The block takes its steps one after the other: it is neither faulted nor halted, and the host does
nothing. -/
def State.running (s : State) : Bool := s.fault.isNone && !s.halted && s.env.host.isEmpty

/-- The operands of the transfer a command of the table stands for in a `state` (R75); `none` for the
control words. -/
def commandOperands (i : Instr) (st : ProtoState) : Option Transfer :=
  match i with
  | .ping => some pingTransfer
  | .data => some (dataTransfer st)
  | .controlWord _ _ _ => none
  | .cwPingCh0 | .cwPingCh1 | .cwPingCh2 | .cwPingCh3 => none
  | .cwDataCh0 | .cwDataCh1 | .cwDataCh2 | .cwDataCh3 => none

/-- The PING column of the table of R62, as the spec writes it. -/
def pingControlWord (c : BitVec 2) : Word :=
  if c = 0 then 0x01010381 else if c = 1 then 0x03010383
  else if c = 2 then 0x05010385 else 0x07010387

/-- The DATA column of the table of R62, as the spec writes it. -/
def dataControlWord (c : BitVec 2) : Word :=
  if c = 0 then 0x01010481 else if c = 1 then 0x03010483
  else if c = 2 then 0x05010485 else 0x07010487

/-- `k` steps of the machine that all answer a next state. -/
def stepsTo : Nat → State → State → Prop
  | 0, s, t => s = t
  | k + 1, s, t => ∃ u, step s = .next u ∧ stepsTo k u t

end Sys2Proof.Machine
end

