-- ==== Sys2Proof/Certificates/Slice0/Obligations.lean ====
section
/-!
DEFINITION. The statements for the provers, in the order of OBLIGATIONS.json. A docstring names the rule
of spec/ a statement formalises; where it rests on a decision D<n> of 92_eei_decisions.md or on an entry
of the assumption log, it says so. What one step is, where a label has several primitives, is log 28.
-/

open Sys2Proof Sys2Proof.Machine

/-! ## Encodings -/

/-- R57, R61, R62, R63: no bit of an encoding is dropped. -/
def Obligations.DecodeEncodeGivesTheInstructionBack : Prop :=
  ∀ i : Instr, WellFormed i = true → decode (encode i) = .ok i

/-- R63, R70: every bytes the decoder accepts are the encoding of the instruction it answers, so no
reserved encoding falls through to a neighbour. -/
def Obligations.DecodedBytesAreTheEncoding : Prop :=
  ∀ (bs : List Byte) (i : Instr), decode bs = .ok i → WellFormed i = true ∧ encode i = bs

/-- R63, for any non-negative operands, and its converse: a word is decoded exactly when every equality
of R63 holds. -/
def Obligations.ControlWordDecodesToItsMaskedInputs : Prop :=
  (∀ channel inLen outLen : Nat,
    let cw := controlWordOf channel inLen outLen
    (cwChannel cw).toNat = channel &&& 3 ∧ (cwChannel2 cw).toNat = channel &&& 3 ∧
    (cwOutLen cw).toNat = outLen &&& 0x7F ∧ (cwInLen cw).toNat = inLen &&& 0x7F ∧
    cw.getLsbD 24 = true ∧ cw.getLsbD 7 = true ∧ cw.getLsbD 0 = true ∧
    cw &&& 0xF8808078 = 0) ∧
  (∀ w : Word,
    (∃ i, decode (bytesOfWord w) = .ok i) ↔
      (cwChannel w = cwChannel2 w ∧ w.getLsbD 24 = true ∧ w.getLsbD 7 = true ∧
        w.getLsbD 0 = true ∧ w &&& 0xF8808078 = 0))

/-- R61: masking before packing, on any non-negative integers, with the shifts the rule writes. -/
def Obligations.ControlWordMasksThenPacks : Prop :=
  ∀ channel inLen outLen : Nat,
    controlWordOf channel inLen outLen =
      BitVec.ofNat 32 (((channel &&& 3) <<< 25) ||| (1 <<< 24) ||| ((outLen &&& 0x7F) <<< 16) |||
        ((inLen &&& 0x7F) <<< 8) ||| (1 <<< 7) ||| ((channel &&& 3) <<< 1) ||| 1)

/-- R62: the words of the table are the words of the encoder, each decodes to its own row, and in every
state of the invariant the control word in flight is one of the two of the block's channel. -/
def Obligations.OnlyTheTabledControlWordsAreIssued : Prop :=
  (∀ c : BitVec 2,
    controlWord c 3 1 = pingControlWord c ∧ controlWord c 4 1 = dataControlWord c ∧
    decode (bytesOfWord (pingControlWord c)) = .ok (cwPing c) ∧
    decode (bytesOfWord (dataControlWord c)) = .ok (cwData c)) ∧
  (∀ (s : State) (cw : Word) (x : Transfer), s.Inv →
    (s.phase = .transfer (.t3 cw) x ∨ s.phase = .transfer (.t4 cw) x) →
    cw = pingControlWord s.cfg.channel ∨ cw = dataControlWord s.cfg.channel)

/-- R57, R62, R63, R70: words written out from the spec's encodings, one or more of each family, and
reserved words. -/
def Obligations.SpecWordsDecode : Prop :=
  decodeTableWord 8 0x00 = some .ping ∧ decodeTableWord 8 0x14 = some .data ∧
  decodeTableWord 32 0x05010385 = some .cwPingCh2 ∧
  decodeTableWord 32 0x07010487 = some .cwDataCh3 ∧
  decodeTableWord 32 0x077F7F87 = some (.controlWord 3 127 127) ∧
  decodeTableWord 32 0x037F0183 = some (.controlWord 1 1 127) ∧
  decodeTableWord 32 0x01000081 = some (.controlWord 0 0 0) ∧
  decodeTableWord 8 0x15 = none ∧ decodeTableWord 32 0x01010380 = none ∧
  decodeTableWord 32 0x01010383 = none ∧ decodeTableWord 32 0x81010381 = none

/-! ## The codec -/

/-- R93, R94: where each byte and each half goes. -/
def Obligations.CorrectorsMoveBytesAndHalves : Prop :=
  (∀ x : Word,
    (reverseBytes x).extractLsb' 24 8 = x.extractLsb' 0 8 ∧
    (reverseBytes x).extractLsb' 16 8 = x.extractLsb' 8 8 ∧
    (reverseBytes x).extractLsb' 8 8 = x.extractLsb' 16 8 ∧
    (reverseBytes x).extractLsb' 0 8 = x.extractLsb' 24 8 ∧
    (swapHalfWords x).extractLsb' 16 16 = x.extractLsb' 0 16 ∧
    (swapHalfWords x).extractLsb' 0 16 = x.extractLsb' 16 16 ∧
    (x.extractLsb' 0 16 = x.extractLsb' 16 16 → swapHalfWords x = x)) ∧
  reverseBytes 0 = 0 ∧ reverseBytes 0xFFFFFFFF = 0xFFFFFFFF ∧
  reverseBytes 0x12344321 = 0x21433412 ∧ reverseBytes 0x11222211 = 0x11222211 ∧
  reverseBytes 0x05000000 = 0x00000005 ∧
  swapHalfWords 0x0000FFFF = 0xFFFF0000 ∧ swapHalfWords 0x12345678 = 0x56781234

/-- R95: the laws of the correctors. -/
def Obligations.CorrectorsAreCommutingInvolutions : Prop :=
  (∀ x : Word, reverseBytes (reverseBytes x) = x) ∧
  (∀ x : Word, swapHalfWords (swapHalfWords x) = x) ∧
  (∀ x : Word, reverseBytes x = swapHalfWords (bswap16x2 x)) ∧
  (∀ x : Word, reverseBytes (swapHalfWords x) = swapHalfWords (reverseBytes x)) ∧
  Function.Bijective reverseBytes ∧ Function.Bijective swapHalfWords

/-- R96 to R100: the fields of the responses. Rests on D8 (the identification field), D17 (the length in
both widths), D18 (unsigned), D19 (the half a W16 sample keeps). -/
def Obligations.ResponseFieldsAreExtracted : Prop :=
  ∀ w : Word,
    (ident w).toNat = w.toNat / 65536 ∧
    (sampleOf .w16 w).toNat = w.toNat / 65536 ∧
    sampleOf .w32 w = w ∧
    decodeLength w = reverseBytes w ∧
    (lengthOk w = true ↔ 0 < w.toNat ∧ w.toNat ≤ 512)

/-! ## The command frames PING and DATA

`commandOperands i s.state = some x0` says that `i` is PING, or DATA in that `state`, and gives the
operands `Transfer(f, want_status)` has then. -/

/-- R90, R91, R75 (D14): the operands of PING and DATA, and outside a transfer the command completes by
entering its transfer at T1 (log 7). That a PING in a state other than Idle returns to I1 is log 7 too. -/
def Obligations.CommandEntersItsTransfer : Prop :=
  (∀ st, commandOperands .ping st = some ⟨⟨0x00, 3, 1⟩, false, .i1⟩) ∧
  commandOperands .data .negotiating = some ⟨⟨0x14, 4, 1⟩, true, .n1⟩ ∧
  commandOperands .data .capturing = some ⟨⟨0x14, 4, 1⟩, false, .c3⟩ ∧
  (∀ (i : Instr) (s : State) (x0 : Transfer), commandOperands i s.state = some x0 →
    (∀ l x, s.phase ≠ .transfer l x) →
    exec i s = .next { s with phase := .transfer .t1 x0 })

/-- R82 (D13): at T1 PING and DATA clear the channel's error bits and nothing else; the other channels'
bits are unchanged. -/
def Obligations.CommandClearsItsChannelsErrors : Prop :=
  ∀ (i : Instr) (s : State) (x x0 : Transfer), commandOperands i s.state = some x0 →
    s.phase = .transfer .t1 x →
    exec i s = .next { s with
      link := { s.link with stat := s.link.stat &&& ~~~s.cfg.errMask s.cfg.channel }
      trace := .clr s.cfg.channel :: s.trace
      phase := .transfer .t2 (x.forCommand x0) } ∧
    errorsPending s.cfg (s.link.stat &&& ~~~s.cfg.errMask s.cfg.channel) = false ∧
    (s.cfg.legal = true → ∀ d : BitVec 2, d ≠ s.cfg.channel →
      (s.link.stat &&& ~~~s.cfg.errMask s.cfg.channel) &&& s.cfg.errMask d =
        s.link.stat &&& s.cfg.errMask d)

/-- R84, R59 (D6, D46): at T2 PING and DATA write the command byte into bits [31:24] of XBUF word 0 and
change no other byte of XBUF. -/
def Obligations.CommandWritesItsByteToTheBuffer : Prop :=
  ∀ (i : Instr) (s : State) (x x0 : Transfer), commandOperands i s.state = some x0 →
    s.phase = .transfer .t2 x → s.cfg.legal = true → s.cfg.aligned = true →
    ∃ t, exec i s = .next t ∧
      t = { s with
        link := { s.link with xbuf := t.link.xbuf }
        trace := .wb 0 (commandWord x0.frame.cmd) :: s.trace
        phase := .transfer (.t3 (controlWord s.cfg.channel x0.frame.inLen x0.frame.outLen))
          (x.forCommand x0) } ∧
      (s.link.xbuf.wf = true →
        t.link.xbuf.wf = true ∧
        t.link.xbuf.readWord 0 = x0.frame.cmd.zeroExtend 32 <<< 24 ∧
        ∀ a : Nat, 4 ≤ a → t.link.xbuf.read a = s.link.xbuf.read a)

/-- R87 (D14), R79, R80, R70: at T3 and T4 a PING or DATA in progress takes the step of the control word in
flight; at T4 a word that is none, or that has a zero length, is refused and nothing is written (log 9). That
the sentinel write leaves STAT as it is read unchanged is log 18, and a control-word write that finds the
controller still busy is log 27. -/
def Obligations.CommandIssuesTheControlWordInFlight : Prop :=
  ∀ (i : Instr) (s : State) (x x0 : Transfer) (cw : Word),
    commandOperands i s.state = some x0 → s.cfg.aligned = true →
    (s.phase = .transfer (.t3 cw) x →
      exec i s = .next { s with
        link := { s.link with statWritten := s.cfg.sentinel }
        trace := .wStat s.cfg.sentinel :: s.trace
        phase := .transfer (.t4 cw) (x.forCommand x0) }) ∧
    (s.phase = .transfer (.t4 cw) x →
      (isControlWord cw = true → cwInLen cw ≠ 0 → cwOutLen cw ≠ 0 →
        exec i s = .next { s with
          link := { s.link with ctrl := cw, busy := true }
          trace := .wCtrl cw :: s.trace
          polls := 0
          phase := .transfer .t5 (x.forCommand x0) }) ∧
      (isControlWord cw = true → cwInLen cw = 0 ∨ cwOutLen cw = 0 →
        exec i s = .refused (.zeroLength cw)) ∧
      (isControlWord cw = false → exec i s = .refused (.unmodelled (.notControlWord cw))))

/-- R81, R83, R146, R58: at T5, with the bound not reached, a poll that finds the controller not busy, or at
the end of its answer, moves on to T6; in the second case STAT and XBUF word 0 then hold the answer, and so
does every byte above word 0 of the words that hold the INLEN response bytes, where the answer has one. That
the other bytes of XBUF are unchanged, and that the bytes come all at this poll, is log 24. -/
def Obligations.PollThatReadsIdleEndsTheWait : Prop :=
  ∀ (i : Instr) (s : State) (x x0 : Transfer), commandOperands i s.state = some x0 →
    s.phase = .transfer .t5 x → s.cfg.legal = true → s.cfg.aligned = true →
    (∀ b, s.cfg.pollBound = some b → s.polls < b) →
    (s.link.busy = false →
      exec i s = .next { s with
        trace := .rBusy false :: s.trace
        phase := .transfer .t6 (x.forCommand x0) }) ∧
    (∀ st r more rest, s.link.busy = true → s.env.xfers = ⟨0, st, r, more⟩ :: rest →
      ∃ t, exec i s = .next t ∧
        t = { s with
          link := { s.link with busy := false, stat := st, xbuf := t.link.xbuf }
          env := { s.env with xfers := rest }
          trace := .rBusy false :: s.trace
          phase := .transfer .t6 (x.forCommand x0) } ∧
        (s.link.xbuf.wf = true →
          t.link.xbuf.wf = true ∧ t.link.xbuf.readWord 0 = r ∧
          ∀ a : Nat, 4 ≤ a → t.link.xbuf.read a =
            if a < 4 * min (((cwInLen s.link.ctrl).toNat + 3) / 4) s.cfg.cmdBufWords then
              more[a - 4]?.getD (s.link.xbuf.read a)
            else s.link.xbuf.read a))

/-- R81, R83, R27: at T5, with the bound not reached, a poll that reads busy leaves the block at T5, with an
answer still to come and with none; with a finite bound `polls` counts it. That the controller leaves XBUF and
STAT as they are while it is busy is log 24, and that the poll which counts to the bound does not itself raise
is log 12. -/
def Obligations.PollThatReadsBusyStays : Prop :=
  ∀ (i : Instr) (s : State) (x x0 : Transfer), commandOperands i s.state = some x0 →
    s.phase = .transfer .t5 x → s.cfg.legal = true → s.cfg.aligned = true →
    (∀ b, s.cfg.pollBound = some b → s.polls < b) → s.link.busy = true →
    (s.env.xfers = [] →
      exec i s = .next { s with
        polls := if s.cfg.pollBound.isSome then s.polls + 1 else s.polls
        trace := .rBusy true :: s.trace
        phase := .transfer .t5 (x.forCommand x0) }) ∧
    (∀ n st r more rest, s.env.xfers = ⟨n + 1, st, r, more⟩ :: rest →
      exec i s = .next { s with
        polls := if s.cfg.pollBound.isSome then s.polls + 1 else s.polls
        env := { s.env with xfers := ⟨n, st, r, more⟩ :: rest }
        trace := .rBusy true :: s.trace
        phase := .transfer .t5 (x.forCommand x0) })

/-- R81, R89, R143 (D40): with a finite bound, once `polls` has reached it at T5 the next step raises
`LinkStall(CHANNEL)` and writes nothing else, whatever answer is still to come; it neither retries nor moves
on. From T5 with `m` polls left to the bound and a controller that stays busy for them, with an answer still
to come or with none, the machine makes the `m` polls and then raises it (the raise is a step of its own,
log 12). That the controller leaves XBUF and STAT as they are while it is busy is log 24. -/
def Obligations.PollBoundRaisesLinkStall : Prop :=
  (∀ (i : Instr) (s : State) (x x0 : Transfer) (b : Nat), commandOperands i s.state = some x0 →
    s.phase = .transfer .t5 x → s.cfg.pollBound = some b → b ≤ s.polls →
    exec i s = .next { s with fault := some (.linkStall s.cfg.channel) }) ∧
  (∀ (s : State) (x : Transfer) (m : Nat), s.Inv → s.running = true → s.phase = .transfer .t5 x →
    s.cfg.pollBound = some (s.polls + m) → s.link.busy = true →
    (s.env.xfers = [] →
      stepsTo (m + 1) s { s with
        polls := s.polls + m
        fault := some (.linkStall s.cfg.channel)
        trace := List.replicate m (.rBusy true) ++ s.trace }) ∧
    (∀ n st r more rest, s.env.xfers = ⟨n + m, st, r, more⟩ :: rest →
      stepsTo (m + 1) s { s with
        polls := s.polls + m
        fault := some (.linkStall s.cfg.channel)
        env := { s.env with xfers := ⟨n, st, r, more⟩ :: rest }
        trace := List.replicate m (.rBusy true) ++ s.trace }))

/-- R86 (D44): at T6 STAT is read into `t_stat` exactly where the command wants the status: DATA in
Negotiating; PING, and DATA in Capturing, do not read it and only advance (log 22). -/
def Obligations.StatusIsReadOnlyWhereWanted : Prop :=
  ∀ (i : Instr) (s : State) (x x0 : Transfer), commandOperands i s.state = some x0 →
    s.phase = .transfer .t6 x → s.cfg.aligned = true →
    (x0.wantStatus = true →
      exec i s = .next { s with
        tStat := s.link.stat
        trace := .rStat s.link.stat :: s.trace
        phase := .transfer .t7 (x.forCommand x0) }) ∧
    (x0.wantStatus = false →
      exec i s = .next { s with phase := .transfer .t7 (x.forCommand x0) })

/-- R85 (D7): at T7 XBUF word 0 is read into `t_resp` and the transfer returns to the handler that
started it. -/
def Obligations.ResponseIsReadAndTheTransferReturns : Prop :=
  ∀ (i : Instr) (s : State) (x x0 : Transfer), commandOperands i s.state = some x0 →
    s.phase = .transfer .t7 x → s.cfg.legal = true → s.cfg.aligned = true →
    exec i s = .next { s with
      tResp := s.link.xbuf.readWord 0
      trace := .rb 0 (s.link.xbuf.readWord 0) :: s.trace
      phase := match x.ret with
        | .i1 => .i1
        | .n1 => .n1
        | .c3 => .c3 }

/-- R87 (D14), R146, R158: a whole transfer. From T1 of a transfer in progress, with the controller's
answer `n` busy polls, `st` and `r`, and a bound the polls stay under, n + 7 steps perform T1 to T7 in
order and nothing else: the trace says each transaction, and the state is unchanged but for what the
steps write; no response byte of PING or DATA lands above XBUF word 0, and that the controller writes no other
word of XBUF is log 24. The number of steps counts T6 also where it reads nothing (log 22). A controller that
is still busy at T1, which a restart can draw, ends with the same answer (log 27), and STAT is unchanged by
the sentinel (log 18). -/
def Obligations.TransferRunsItsSevenSteps : Prop :=
  ∀ (s : State) (x : Transfer) (n : Nat) (st r : Word) (more : List Byte) (rest : List XferAnswer),
    s.Inv → s.running = true → s.phase = .transfer .t1 x →
    s.env.xfers = ⟨n, st, r, more⟩ :: rest → (∀ b, s.cfg.pollBound = some b → n < b) →
    let cw := controlWord s.cfg.channel x.frame.inLen x.frame.outLen
    stepsTo (n + 7) s { s with
      phase := returnPhase x.ret
      polls := if s.cfg.pollBound.isSome then n else 0
      tStat := if x.wantStatus then st else s.tStat
      tResp := r
      link := {
        ctrl := cw
        stat := st
        statWritten := s.cfg.sentinel
        busy := false
        xbuf := (s.link.xbuf.writeWord 0 (commandWord x.frame.cmd)).writeWord 0 r }
      env := { s.env with xfers := rest }
      trace := .rb 0 r :: ((if x.wantStatus then [.rStat st] else []) ++
        .rBusy false :: (List.replicate n (.rBusy true) ++
        .wCtrl cw :: .wStat s.cfg.sentinel :: .wb 0 (commandWord x.frame.cmd) ::
        .clr s.cfg.channel :: s.trace)) }

/-- R83, R161: with no poll bound and a controller that never answers, the block polls for ever: for every
number of steps it is still at T5, not faulted, with one more busy read for each step. That the controller
leaves XBUF and STAT as they are while it is busy is log 24. -/
def Obligations.StalledLinkPollsForever : Prop :=
  ∀ (s : State) (x : Transfer), s.Inv → s.running = true → s.phase = .transfer .t5 x →
    s.cfg.pollBound = none → s.link.busy = true → s.env.xfers = [] →
    ∀ k : Nat, stepsTo k s { s with trace := List.replicate k (.rBusy true) ++ s.trace }

/-! ## The control words

`i.controlFields = some (c, n, o)` says that `i` is one of the nine control words of the table, with its
channel, INLEN and OUTLEN. -/

/-- R78, R79 (D5): the first step of `configure_transfer`, at every label but T4: the sentinel goes to
STAT. The operands of the transfer it then stands in, outside one, are log 8; that the write leaves STAT as
it is read unchanged is log 18. -/
def Obligations.ConfigureWritesTheSentinelFirst : Prop :=
  ∀ (i : Instr) (s : State) (c : BitVec 2) (n o : BitVec 7),
    i.controlFields = some (c, n, o) → s.cfg.aligned = true →
    (∀ cw x, s.phase ≠ .transfer (.t4 cw) x) →
    exec i s = .next { s with
      link := { s.link with statWritten := s.cfg.sentinel }
      trace := .wStat s.cfg.sentinel :: s.trace
      phase := .transfer (.t4 (controlWord c n o)) s.transferOp }

/-- R78, R80 (D5), R70: the second step, at T4: the control word goes to CTRL, and because START is set the
controller becomes busy; `polls` is 0. A word with a zero length is refused there and nothing is written
(U7, U19, log 9). A controller that is still busy is log 27. -/
def Obligations.ConfigureWritesTheControlWordAndStarts : Prop :=
  ∀ (i : Instr) (s : State) (c : BitVec 2) (n o : BitVec 7) (cw : Word) (x : Transfer),
    i.controlFields = some (c, n, o) → s.phase = .transfer (.t4 cw) x →
    (n ≠ 0 → o ≠ 0 → s.cfg.aligned = true →
      exec i s = .next { s with
        link := { s.link with ctrl := controlWord c n o, busy := true }
        trace := .wCtrl (controlWord c n o) :: s.trace
        polls := 0
        phase := .transfer .t5 x }) ∧
    (n = 0 ∨ o = 0 → exec i s = .refused (.zeroLength (controlWord c n o)))

/-- R78, R79 (D5): a control word completes in two steps, the sentinel directly before the control
word, with no other access between them. The transfer it then stands in, executed outside one, is log 8,
that STAT as it is read is unchanged is log 18, and a controller that is still busy is log 27. -/
def Obligations.ConfigureTransferTakesTwoSteps : Prop :=
  ∀ (i : Instr) (s : State) (c : BitVec 2) (n o : BitVec 7),
    i.controlFields = some (c, n, o) → n ≠ 0 → o ≠ 0 → s.cfg.aligned = true →
    (∀ cw x, s.phase ≠ .transfer (.t4 cw) x) →
    ∃ t u, exec i s = .next t ∧ exec i t = .next u ∧
      u = { s with
        link := { s.link with
          statWritten := s.cfg.sentinel, ctrl := controlWord c n o, busy := true }
        trace := .wCtrl (controlWord c n o) :: .wStat s.cfg.sentinel :: s.trace
        polls := 0
        phase := .transfer .t5 s.transferOp }

/-! ## Accesses that R48 forbids, and frames -/

/-- R48, R141 (D45, log 14): an access at a misaligned address, and an XBUF access with no such word,
raises `CapacityExceeded` and writes nothing else: neither split nor wrapped. The sentinel write and the
control-word write, by a control word and by PING and DATA; the two buffer accesses; the busy poll at the
address of BUSY_REG; the status read. -/
def Obligations.ForbiddenAccessRaisesCapacityExceeded : Prop :=
  (∀ (i : Instr) (s : State) (c : BitVec 2) (n o : BitVec 7),
    i.controlFields = some (c, n, o) →
    ((∀ cw x, s.phase ≠ .transfer (.t4 cw) x) → s.cfg.addrStat.toNat % 4 ≠ 0 →
      exec i s = .next { s with fault := some (.capacityExceeded s.cfg.addrStat.toNat) }) ∧
    (∀ cw x, s.phase = .transfer (.t4 cw) x → n ≠ 0 → o ≠ 0 → s.cfg.addrCtrl.toNat % 4 ≠ 0 →
      exec i s = .next { s with fault := some (.capacityExceeded s.cfg.addrCtrl.toNat) })) ∧
  (∀ (i : Instr) (s : State) (x x0 : Transfer), commandOperands i s.state = some x0 →
    (s.phase = .transfer .t2 x ∨ s.phase = .transfer .t7 x →
      (s.cfg.cmdBufWords = 0 →
        exec i s = .next { s with fault := some (.capacityExceeded 0) }) ∧
      (1 ≤ s.cfg.cmdBufWords → s.cfg.addrBuf.toNat % 4 ≠ 0 →
        exec i s = .next { s with fault := some (.capacityExceeded s.cfg.addrBuf.toNat) })) ∧
    (∀ cw, s.phase = .transfer (.t3 cw) x → s.cfg.addrStat.toNat % 4 ≠ 0 →
      exec i s = .next { s with fault := some (.capacityExceeded s.cfg.addrStat.toNat) }) ∧
    (∀ cw, s.phase = .transfer (.t4 cw) x → isControlWord cw = true → cwInLen cw ≠ 0 →
      cwOutLen cw ≠ 0 → s.cfg.addrCtrl.toNat % 4 ≠ 0 →
      exec i s = .next { s with fault := some (.capacityExceeded s.cfg.addrCtrl.toNat) }) ∧
    (s.phase = .transfer .t5 x → (∀ b, s.cfg.pollBound = some b → s.polls < b) →
      (s.cfg.busyReg = .ctrl → s.cfg.addrCtrl.toNat % 4 ≠ 0 →
        exec i s = .next { s with fault := some (.capacityExceeded s.cfg.addrCtrl.toNat) }) ∧
      (s.cfg.busyReg = .stat → s.cfg.addrStat.toNat % 4 ≠ 0 →
        exec i s = .next { s with fault := some (.capacityExceeded s.cfg.addrStat.toNat) })) ∧
    (s.phase = .transfer .t6 x → x0.wantStatus = true → s.cfg.addrStat.toNat % 4 ≠ 0 →
      exec i s = .next { s with fault := some (.capacityExceeded s.cfg.addrStat.toNat) }))

/-- R17, R28, R87: the frame of the whole table. An instruction that answers a next state changes no
session register, no width, no latch, no capture-buffer byte, nothing of the sink, the configuration or
the other agents but the link controller; and it never halts the block. -/
def Obligations.InstructionsLeaveTheSessionAlone : Prop :=
  ∀ (i : Instr) (s t : State), exec i s = .next t →
    t = { s with
      phase := t.phase, polls := t.polls, tStat := t.tStat, tResp := t.tResp
      fault := t.fault, link := t.link, trace := t.trace
      env := { s.env with xfers := t.env.xfers } }

/-- R17, R60, R78: the control words' own frame: besides the frame of the whole table they change neither
`t_stat` nor `t_resp`, nor any byte of XBUF. That the sentinel write leaves STAT as it is read unchanged is
the model's reading, log 18: R79 leaves its effect to the controller. -/
def Obligations.ControlWordsOnlyWriteThePorts : Prop :=
  ∀ (i : Instr) (s t : State) (c : BitVec 2) (n o : BitVec 7),
    i.controlFields = some (c, n, o) → exec i s = .next t →
    t.tStat = s.tStat ∧ t.tResp = s.tResp ∧ t.link.stat = s.link.stat ∧
    t.env = s.env ∧ ∀ a : Nat, t.link.xbuf.read a = s.link.xbuf.read a

/-! ## The tick -/

/-- R102 (D41), R73, R31: at K0 the block holds until a tick is granted; with the grant the events raised
before it are latched, a latch already set stays set, and the answers that come are those of this tick
(log 4). -/
def Obligations.TickIsAwaitedAndEventsLatch : Prop :=
  ∀ s : State, s.phase = .k0 →
    (s.env.ticks = [] → runPhase s = .next s) ∧
    (∀ g rest, s.env.ticks = g :: rest →
      runPhase s = .next { s with
        pendExit := s.pendExit || g.events.exit
        pendToggle := s.pendToggle || g.events.toggle
        env := { s.env with
          ticks := rest, xfers := g.xfers, sink := g.sink
          unused := s.env.unused + s.env.xfers.length + s.env.sink.length }
        phase := .k1 })

/-- R103, R106 (D21): at K1 the latches are read and cleared together, only in Idle and Negotiating; in
Capturing they stay. -/
def Obligations.PollConsumesLatchesOutsideCaptures : Prop :=
  ∀ s : State, s.phase = .k1 →
    ((s.state = .idle ∨ s.state = .negotiating) →
      runPhase s = .next { s with
        pendExit := false, pendToggle := false
        phase := .k2 { exit := s.pendExit, toggle := s.pendToggle } }) ∧
    ((s.state = .capturing ∨ s.state = .illegal3) →
      runPhase s = .next { s with phase := .k2 { exit := false, toggle := false } })

/-- R104, R105, R142 (D21, D22): at K2 RequestExit halts and wins over ToggleWidth, which inverts the
width mode and then logs the new mode. That `phase` stays at K2 after the halt is the model's choice, log 23,
and that LOG EXIT stands in the step that halts, and MODE_SWITCH in a step of its own, is log 28. -/
def Obligations.ExitWinsOverToggle : Prop :=
  (∀ (s : State) (ev : Events), s.phase = .k2 ev →
    (ev.exit = true →
      runPhase s = .next { s with halted := true, trace := .halt :: .log .exit :: s.trace }) ∧
    (ev.exit = false → ev.toggle = true →
      runPhase s = .next { s with
        widthMode := otherWidth s.widthMode
        phase := .emit (.modeSwitch (otherWidth s.widthMode)) }) ∧
    (ev.exit = false → ev.toggle = false → runPhase s = .next { s with phase := .k3 })) ∧
  (∀ (s : State) (w : Width), s.phase = .emit (.modeSwitch w) →
    runPhase s = .next { s with trace := .log (.modeSwitch w) :: s.trace, phase := .k3 })

/-- R101, R141 (D20, D42): at K3 the handler of the present `state` runs, and the value 3 raises
`IllegalState(3)`. -/
def Obligations.EachStateHasItsHandler : Prop :=
  ∀ s : State, s.phase = .k3 →
    (s.state = .idle → runPhase s = .next { s with phase := .i0 }) ∧
    (s.state = .negotiating → runPhase s = .next { s with phase := .n0 }) ∧
    (s.state = .capturing → runPhase s = .next { s with phase := .c0 }) ∧
    (s.state = .illegal3 → runPhase s = .next { s with fault := some (.illegalState 3) })

/-! ## The handlers -/

/-- R109, R110: the identification decides the Idle handler: the handheld's moves to Negotiating, another
one that is not 0 is reported and changes nothing else. That the registers of I2 are one step (R34), and the
record the next, is log 28. -/
def Obligations.IdentificationMovesOrReports : Prop :=
  (∀ (s : State) (id : Half), s.phase = .i2 id →
    (id = s.cfg.handheldId →
      runPhase s = .next { s with
        deviceId := id, state := .negotiating, phase := .emit (.deviceDetected id) }) ∧
    (id ≠ s.cfg.handheldId → id ≠ 0 →
      runPhase s = .next { s with phase := .emit (.unrecognizedDevice id) })) ∧
  (∀ (s : State) (id : Half),
    (s.phase = .emit (.deviceDetected id) →
      runPhase s = .next { s with trace := .log (.deviceDetected id) :: s.trace, phase := .k0 }) ∧
    (s.phase = .emit (.unrecognizedDevice id) →
      runPhase s = .next { s with trace := .log (.unrecognizedDevice id) :: s.trace, phase := .k0 }))

/-- R107, R99 (D8), R108 (D15): the identification is the response's upper half, and one of 0 is silent and
changes nothing. -/
def Obligations.ZeroIdentificationIsSilent : Prop :=
  (∀ s : State, s.phase = .i1 →
    runPhase s = .next { s with phase := .i2 (s.tResp.extractLsb' 16 16) }) ∧
  (∀ s : State, s.phase = .i2 0 → s.cfg.legal = true → runPhase s = .next { s with phase := .k0 })

/-- R112, R138, R115: the error test comes before the length test: error bits of the block's channel
reject whatever the response holds, other channels' bits are ignored. Whether the handler then ends or first
emits the record NEG_REJECTED is the free value of log 5. -/
def Obligations.OwnErrorBitsRejectFirst : Prop :=
  (∀ s : State, s.phase = .n1 →
    (s.tStat &&& s.cfg.errMask s.cfg.channel ≠ 0 →
      ∃ p, (p = .k0 ∨ p = .emit (.negRejected .errorBits)) ∧
        runPhase s = .next { s with freeDraws := s.freeDraws + 1, phase := p }) ∧
    (s.tStat &&& s.cfg.errMask s.cfg.channel = 0 → runPhase s = .next { s with phase := .n2 })) ∧
  (∀ (s : State) (cause : RejectCause), s.phase = .emit (.negRejected cause) →
    runPhase s = .next { s with trace := .log (.negRejected cause) :: s.trace, phase := .k0 }) ∧
  (∀ (c : Config) (a b : Word), a &&& c.errMask c.channel = b &&& c.errMask c.channel →
    errorsPending c a = errorsPending c b)

/-- R115, R138, R67 (D18, D31): a length of 0 or above 512 is rejected with its cause and writes no
session register. Whether the handler then ends or first emits the record NEG_REJECTED, whose step is
OwnErrorBitsRejectFirst's, is the free value of log 5. -/
def Obligations.BadLengthIsRejectedWithItsCause : Prop :=
  (∀ s : State, s.phase = .n2 →
    runPhase s = .next { s with phase := .n3 (reverseBytes s.tResp) }) ∧
  (∀ (s : State) (len : Word), s.phase = .n3 len →
    (len.toNat = 0 ∨ 512 < len.toNat →
      ∃ p, (p = .k0 ∨ p = .emit (.negRejected
          (if len.toNat = 0 then .lengthZero else .lengthTooLarge))) ∧
        runPhase s = .next { s with freeDraws := s.freeDraws + 1, phase := p }) ∧
    (0 < len.toNat → len.toNat ≤ 512 → runPhase s = .next { s with phase := .n4 len }))

/-- R114, R111, R18, R11: with no error bits and an acceptable length, the negotiation ends six steps after
the response in Capturing, with `target_length` the decoded length, the record of it, and `captured_count` 0.
The six are N1 to N3, of which N2 takes a step of its own (log 22), and the two writes and the Log of N4
(log 28). -/
def Obligations.AcceptedLengthStartsACapture : Prop :=
  ∀ s : State, s.Inv → s.running = true → s.phase = .n1 →
    s.tStat &&& s.cfg.errMask s.cfg.channel = 0 → lengthOk (reverseBytes s.tResp) = true →
    stepsTo 6 s { s with
      targetLength := (reverseBytes s.tResp).extractLsb' 0 10
      state := .capturing
      trace := .log (.captureSize (reverseBytes s.tResp)) :: s.trace
      phase := .k0 } ∧
    ((reverseBytes s.tResp).extractLsb' 0 10).toNat = (reverseBytes s.tResp).toNat ∧
    s.capturedCount = 0

/-- R116, R117, R119 (D25): the capture loop's own registers: the width is latched at C0, C1 tests the
count, C4 counts, and under the invariant the count never passes `target_length`, so it does not wrap. -/
def Obligations.CaptureLoopCountsToItsTarget : Prop :=
  (∀ s : State, s.phase = .c0 →
    runPhase s = .next { s with capWidth := s.widthMode, phase := .c1 }) ∧
  (∀ s : State, s.phase = .c1 →
    runPhase s = .next { s with
      phase := if s.capturedCount.toNat < s.targetLength.toNat then .c2 else .c6 }) ∧
  (∀ s : State, s.phase = .c4 →
    runPhase s = .next { s with capturedCount := s.capturedCount + 1, phase := .c5 } ∧
    (s.Inv → (s.capturedCount + 1).toNat = s.capturedCount.toNat + 1 ∧
      s.capturedCount.toNat + 1 ≤ s.targetLength.toNat ∧ s.targetLength.toNat ≤ 512))

/-- R118, R48 (D16, D19): at C3 the sample of the latched width goes to the entry at `captured_count` and
every byte outside that entry is unchanged; at 512 or above the store raises `CapacityExceeded` and
writes nothing else. -/
def Obligations.SampleIsStoredAtTheCount : Prop :=
  ∀ s : State, s.phase = .c3 →
    (s.capturedCount.toNat < 512 →
      ∃ t, runPhase s = .next t ∧
        t = { s with
          cbuf := t.cbuf
          trace := .cb s.capturedCount.toNat
            (match s.capWidth with
              | .w32 => s.tResp
              | .w16 => (s.tResp.extractLsb' 16 16).zeroExtend 32) :: s.trace
          phase := .c4 } ∧
        (s.cbuf.wf = true →
          t.cbuf.wf = true ∧
          t.entry s.capturedCount.toNat =
            (match s.capWidth with
              | .w32 => s.tResp
              | .w16 => (s.tResp.extractLsb' 16 16).zeroExtend 32) ∧
          ∀ a : Nat, a < 4 * s.capturedCount.toNat ∨ 4 * s.capturedCount.toNat + 4 ≤ a →
            t.cbuf.read a = s.cbuf.read a)) ∧
    (512 ≤ s.capturedCount.toNat →
      runPhase s = .next { s with
        fault := some (.capacityExceeded s.capturedCount.toNat) })

/-- R120, R147, R162 (D27, log 20): at C5 the delay ends only at a timer reading of at least 1 ms; below
it the block holds. With no reading queued the delay is granted. -/
def Obligations.DelayLastsAtLeastOneMillisecond : Prop :=
  ∀ s : State, s.phase = .c5 →
    (s.env.timer = [] →
      runPhase s = .next { s with trace := .delay 1 :: s.trace, phase := .c1 }) ∧
    (∀ ms rest, s.env.timer = ms :: rest →
      (1 ≤ ms → runPhase s = .next { s with
        env := { s.env with timer := rest }
        trace := .delay 1 :: s.trace
        phase := .c1 }) ∧
      (ms < 1 → runPhase s = .next { s with env := { s.env with timer := rest } }))

/-- R121, R125 (D26, D28): at C6 the block holds until the sink answers; when it answers Ok the capture is
recorded, and at C7 the session resets while `target_length`, `cap_width`, `device_id` and `cbuf` keep
their values. That the record stands in a step between C6 and C7, and the two writes of C7 are two steps, is
log 28, and that a hold nothing has answered is a step that changes nothing is log 4. -/
def Obligations.PersistThenSessionReset : Prop :=
  (∀ s : State, s.phase = .c6 → s.targetLength.toNat ≤ 512 → s.env.sink = [] →
    runPhase s = .next s) ∧
  (∀ (s : State) (rest : List Bool), s.phase = .c6 → s.targetLength.toNat ≤ 512 →
    s.env.sink = true :: rest →
    runPhase s = .next { s with
      sink := s.sink.persisted s.cfg true
        (persistBytes s.cfg.sinkByteOrder s.capWidth s.cbuf s.targetLength.toNat)
      env := { s.env with sink := rest }
      trace := .persist s.targetLength s.capWidth true :: s.trace
      phase := .emit (.captureComplete s.targetLength) }) ∧
  (∀ (s : State) (n : BitVec 10), s.phase = .emit (.captureComplete n) →
    runPhase s = .next { s with trace := .log (.captureComplete n) :: s.trace, phase := .c7 }) ∧
  (∀ s : State, s.phase = .c7 →
    runPhase s = .next { s with capturedCount := 0, phase := .c7State }) ∧
  (∀ s : State, s.phase = .c7State →
    runPhase s = .next { s with state := .negotiating, phase := .k0 })

/-- R122, R121: a Persist that answers Fail is recorded and the session resets as after an Ok, in Negotiating
four steps later, the answer, the record and the two writes of C7 (log 28); nothing stops and nothing is
retried. The sink's object is unchanged (R128, R129, D29, log 21); what becomes of `sink_first` is R128's and
left open here. -/
def Obligations.FailedPersistStillResetsTheSession : Prop :=
  ∀ (s : State) (rest : List Bool), s.Inv → s.running = true → s.phase = .c6 →
    s.env.sink = false :: rest →
    ∃ first : Bool, stepsTo 4 s { s with
      sink := { s.sink with first := first }
      env := { s.env with sink := rest }
      trace := .log .storageUnavailable :: .persist s.targetLength s.capWidth false :: s.trace
      capturedCount := 0
      state := .negotiating
      phase := .k0 }

/-- R127: the first successful Persist truncates the object, every later one appends. -/
def Obligations.FirstPersistTruncatesLaterAppend : Prop :=
  ∀ (k : Sink) (c : Config) (bytes : List Byte),
    (k.first = true → k.persisted c true bytes = { first := false, obj := bytes }) ∧
    (k.first = false → k.persisted c true bytes = { first := false, obj := k.obj ++ bytes })

/-- R126, R131, R128, R129 (D26, D29, D30): `Persist(n, w)` gives the entries 0 to n-1 in order, 4 bytes
each at W32 and 2 at W16 in the sink's byte order; entries at n and above do not matter; a failed one
writes no byte, and uses up the truncation of the first exactly where SINK_FIRST_ON_FAIL says so. -/
def Obligations.PersistedBytesAreTheSamplesInOrder : Prop :=
  (∀ (order : ByteOrder) (m : Memory) (n : Nat),
    (persistBytes order .w32 m n).length = 4 * n ∧
    (persistBytes order .w16 m n).length = 2 * n) ∧
  (∀ (order : ByteOrder) (w : Width) (m : Memory) (n : Nat),
    persistBytes order w m (n + 1) =
      persistBytes order w m n ++ sampleBytes order w (m.readWord n)) ∧
  (∀ (order : ByteOrder) (w : Width) (m m' : Memory) (n : Nat),
    (∀ i, i < n → m.readWord i = m'.readWord i) →
    persistBytes order w m n = persistBytes order w m' n) ∧
  (∀ (w : Width) (e : Word),
    sampleBytes .little w e = (sampleBytes .big w e).reverse ∧
    sampleBytes .big .w32 e =
      [e.extractLsb' 24 8, e.extractLsb' 16 8, e.extractLsb' 8 8, e.extractLsb' 0 8] ∧
    sampleBytes .big .w16 e = [e.extractLsb' 8 8, e.extractLsb' 0 8]) ∧
  (∀ (k : Sink) (c : Config) (bytes : List Byte),
    (k.persisted c false bytes).obj = k.obj ∧
    (c.sinkFirstOnFail = false → (k.persisted c false bytes).first = k.first) ∧
    (c.sinkFirstOnFail = true → (k.persisted c false bytes).first = false))

/-- R117, R121, R126 (D16, D19, D26 to D28): a whole capture session. From C0, with an answer of the
controller for every sample that stays under the poll bound, an answer of the sink, and any readings of the
delay timer, the block reaches K0 in Negotiating, the samples of the responses stand in entries 0 to
`target_length` - 1, no other entry has changed, and the sink has been given the samples' bytes in order.
A delay that no reading is left for is granted (log 20). -/
def Obligations.CaptureSessionStoresAndPersistsItsSamples : Prop :=
  ∀ (s : State) (answers rest : List XferAnswer) (opens : Bool) (more : List Bool),
    s.Inv → s.running = true → s.phase = .c0 →
    (∀ b, s.cfg.pollBound = some b → ∀ a ∈ answers, a.busyPolls < b) →
    answers.length = s.targetLength.toNat → s.env.xfers = answers ++ rest →
    s.env.sink = opens :: more →
    ∃ k t, stepsTo k s t ∧ t.phase = .k0 ∧ t.state = .negotiating ∧ t.capturedCount = 0 ∧
      t.targetLength = s.targetLength ∧ t.capWidth = s.widthMode ∧ t.fault = none ∧
      t.env.xfers = rest ∧
      (∀ j a, answers[j]? = some a → t.entry j = sampleOf s.widthMode a.resp) ∧
      (∀ j, answers.length ≤ j → t.entry j = s.entry j) ∧
      t.sink = s.sink.persisted s.cfg opens
        (answers.flatMap fun a =>
          sampleBytes s.cfg.sinkByteOrder s.widthMode (sampleOf s.widthMode a.resp))

/-! ## The machine -/

/-- R11, R18, R87: where the block stands at a phase that issues an instruction, the step is that
instruction's, after the host's input of the step has landed, under the guard of R32 (log 13, log 15). -/
def Obligations.StepRunsTheIssuedInstruction : Prop :=
  ∀ (s : State) (bs : List Byte) (i : Instr),
    s.noRestart = true → s.cfg.legal = true → s.fault = none → s.halted = false →
    fetch s.phase = some bs → decode bs = .ok i →
    step s = guardInvariant (hostInput s).2 (exec i (hostInput s).2)

/-- R32, R141: the guard of R32 never changes what an instruction does: the step of the issued instruction
is the instruction's own from every state in which R32 holds. -/
def Obligations.GuardNeverStopsAnInstruction : Prop :=
  ∀ (s : State) (bs : List Byte) (i : Instr),
    s.noRestart = true → s.cfg.legal = true → s.fault = none → s.halted = false →
    fetch s.phase = some bs → decode bs = .ok i → s.sessionOk = true →
    step s = exec i (hostInput s).2

/-- R70, R88, R141 (D42): a transfer with another command byte, and a word in flight that fails R63, is
refused by name; so is, at the CTRL write, a control word with a zero length (U7, U19, log 9). -/
def Obligations.UnknownCommandsAreRefused : Prop :=
  (∀ (s : State) (x : Transfer), s.noRestart = true → s.cfg.legal = true → s.fault = none →
    s.halted = false → s.phase = .transfer .t1 x → x.frame.cmd ≠ 0x00 → x.frame.cmd ≠ 0x14 →
    step s = .refused (.unmodelled (.unknownCommand x.frame.cmd))) ∧
  (∀ (s : State) (x : Transfer) (cw : Word), s.noRestart = true → s.cfg.legal = true →
    s.fault = none → s.halted = false →
    (s.phase = .transfer (.t3 cw) x ∨ s.phase = .transfer (.t4 cw) x) →
    isControlWord cw = false → step s = .refused (.unmodelled (.notControlWord cw))) ∧
  (∀ (s : State) (x : Transfer) (cw : Word), s.noRestart = true → s.cfg.legal = true →
    s.fault = none → s.halted = false → s.phase = .transfer (.t4 cw) x → isControlWord cw = true →
    cwInLen cw = 0 ∨ cwOutLen cw = 0 → step s = .refused (.zeroLength cw))

/-- R8, R25, R26, R31, R140 (D22, D42, log 11, log 15): the conditions in which the block has no step: an
illegal configuration is refused, a faulted block has none, a halted one stands while the host's events are
latched, and with none it does not change. At whatever label the block stands, the events the host raises
before a step are latched before it, a latch already set stays set, and nothing else changes. -/
def Obligations.StoppedBlockMakesNoStep : Prop :=
  ∀ s : State, s.noRestart = true →
    (s.cfg.legal = false → step s = .refused .illegalConfiguration) ∧
    (∀ f, s.cfg.legal = true → s.fault = some f → step s = .fault (.stopped f)) ∧
    (s.cfg.legal = true → s.fault = none → s.halted = true →
      (s.env.host = [] → step s = .next s) ∧
      (∀ h rest, s.env.host = h :: rest →
        step s = .next { s with
          pendExit := s.pendExit || h.exit
          pendToggle := s.pendToggle || h.toggle
          env := { s.env with host := rest } })) ∧
    (s.cfg.legal = true → s.fault = none → s.halted = false →
      (s.env.host = [] → step s = guardInvariant s (runPhase s)) ∧
      (∀ h rest, s.env.host = h :: rest →
        let u := { s with
          pendExit := s.pendExit || h.exit
          pendToggle := s.pendToggle || h.toggle
          env := { s.env with host := rest } }
        step s = guardInvariant u (runPhase u)))

/-- R153 (D22 to D25, D42): every register's reset value, for every configuration. The values of
`t_stat` and `t_resp` are not stated: the spec gives none. -/
def Obligations.ResetGivesEveryRegisterItsValue : Prop :=
  (∀ c : Config,
    let s := State.resetWith c
    s.cfg = c ∧ s.state = .idle ∧ s.phase = .k0 ∧ s.deviceId = 0 ∧ s.targetLength = 0 ∧
    s.capturedCount = 0 ∧ s.widthMode = c.initialWidth ∧ s.capWidth = c.initialWidth ∧
    s.halted = false ∧ s.fault = none ∧ s.polls = 0 ∧ (∀ i, s.entry i = 0) ∧
    s.pendExit = false ∧ s.pendToggle = false ∧ s.sink.first = true) ∧
  (∃ c, State.reset = State.resetWith c ∧ c.legal = true)

/-- R134, R153: the host may terminate the block at any step, stopped or not: all block state is lost and the
capture buffer is zero, nothing is persisted, the object keeps its bytes and the next successful Persist
truncates it. The spec gives `t_stat` and `t_resp` no reset value, so the statement gives them none; the link
controller holds the draw of R155; that the other agents and the records go on is log 15. That a restart is
taken whatever its configuration is, and out of an illegal one, is log 29. -/
def Obligations.HostTerminationIsAReset : Prop :=
  ∀ (s : State) (r : Restart), (hostInput s).1 = some r →
    ∃ t, step s = .next t ∧
      t = { State.resetWith r.cfg with
        tStat := t.tStat
        tResp := t.tResp
        link := r.link
        sink := { first := true, obj := s.sink.obj }
        env := { s.env with host := s.env.host.tail }
        trace := s.trace
        freeDraws := s.freeDraws } ∧
      (∀ i, t.entry i = 0) ∧ t.sink.obj = s.sink.obj ∧
      ∀ bytes, (t.sink.persisted r.cfg true bytes).obj = bytes

/-- R154, R101, R107: after reset the first tick without RequestExit leads, in six steps, to the first port
transaction, the PortClearErr(CHANNEL) of a PING transfer; a toggle with that tick is only recorded
before it, in one step more. The number of steps counts the entry into the transfer (log 7), the label K3
(log 22) and the record of a toggle (log 28). -/
def Obligations.FirstTransactionIsAPing : Prop :=
  ∀ (c : Config) (g : Tick) (rest : List Tick),
    c.legal = true → g.events.exit = false →
    ∃ t, stepsTo (if g.events.toggle then 7 else 6) { State.resetWith c with env := { Env.none with ticks := g :: rest } } t ∧
      t.phase = .transfer .t2 pingTransfer ∧
      t.trace = .clr c.channel ::
        (if g.events.toggle then [.log (.modeSwitch (otherWidth c.initialWidth))] else [])

/-! ## Invariants -/

/-- R157: reset alone establishes the invariant, whatever configuration the platform provides. -/
def Obligations.ResetMeetsTheInvariant : Prop :=
  ∀ c : Config, c.legal = true → c.aligned = true → (State.resetWith c).Inv

/-- R19 to R24, R29, R32 to R34, R38, R41, R78, R89: every step of the machine keeps the invariant, a
restart by the host included, whatever the controller then holds (R155): the registers fit `state`, each
label finds what it presumes, and the memories keep their canonical form and their sizes. -/
def Obligations.EveryStepKeepsTheInvariant : Prop :=
  ∀ s t : State, s.Inv → step s = .next t → t.Inv

/-- R141 (D42): no model fault is reachable: from a state of the invariant a step that writes the fault
register writes `LinkStall(CHANNEL)`, and only with a finite poll bound. -/
def Obligations.OnlyLinkStallIsEverRaised : Prop :=
  ∀ s t : State, s.Inv → s.fault = none → step s = .next t → t.fault ≠ none →
    t.fault = some (.linkStall s.cfg.channel) ∧ s.cfg.pollBound ≠ none

/-- R141, R168: a state of the invariant whose fault register is clear always has a next state: it is
neither refused nor stopped. That a halted block, which R25 gives no step, answers one is the model's choice,
log 11, and so it is, log 4, that a hold nothing has answered, which R11 gives no step, answers one. -/
def Obligations.EveryReachableBlockCanStep : Prop :=
  ∀ s : State, s.Inv → s.fault = none → ∃ t, step s = .next t

/-- R32: the session invariant holds in every state of the machine's invariant, which every step keeps;
and a step of the block that would reach a state that breaks it raises `InvariantViolation` and writes
nothing else; a step that raises a fault of its own raises that one (R48, R142, log 13). -/
def Obligations.SessionInvariantHoldsAndIsGuarded : Prop :=
  (∀ s t : State, s.Inv → step s = .next t →
    (t.state = .capturing →
      t.capturedCount.toNat ≤ t.targetLength.toNat ∧ t.targetLength.toNat ≤ 512) ∧
    (t.state = .idle ∨ t.state = .negotiating → t.capturedCount = 0)) ∧
  (∀ s t : State, s.noRestart = true → s.cfg.legal = true → s.fault = none → s.halted = false →
    runPhase (hostInput s).2 = .next t → t.fault = none →
    ((t.state = .capturing ∧
        ¬ (t.capturedCount.toNat ≤ t.targetLength.toNat ∧ t.targetLength.toNat ≤ 512)) ∨
      ((t.state = .idle ∨ t.state = .negotiating) ∧ t.capturedCount ≠ 0)) →
    step s = .next { (hostInput s).2 with fault := some .invariantViolation }) ∧
  (∀ s t : State, s.noRestart = true → s.cfg.legal = true → s.fault = none → s.halted = false →
    runPhase (hostInput s).2 = .next t → t.fault ≠ none → step s = .next t)

/-- R88: a control word is never written while the controller is busy: the controller is busy only while
the block polls it, and every step that is not a restart keeps that. -/
def Obligations.NoControlWordWhileBusy : Prop :=
  (∀ s t : State, s.busyOnlyPolling = true → s.noRestart = true → step s = .next t →
    t.busyOnlyPolling = true) ∧
  (∀ (s : State) (cw : Word) (x : Transfer), s.busyOnlyPolling = true →
    s.phase = .transfer (.t4 cw) x → s.link.busy = false)

/-- R30: the configuration, CHANNEL with it, is constant until the next reset. -/
def Obligations.ConfigurationIsConstantUntilReset : Prop :=
  ∀ s t : State, s.noRestart = true → step s = .next t → t.cfg = s.cfg

/-- R123: `cap_width` is written only at C0, Persist reads `cap_width`, and `width_mode` is written only
at K2 of a tick that is not Capturing: toggling cannot change the width of a capture in progress. -/
def Obligations.WidthOfACaptureIsFixed : Prop :=
  (∀ s t : State, s.Inv → s.noRestart = true → step s = .next t →
    (t.capWidth ≠ s.capWidth → s.phase = .c0 ∧ t.capWidth = s.widthMode) ∧
    (t.widthMode ≠ s.widthMode → (∃ ev, s.phase = .k2 ev) ∧ s.state ≠ .capturing)) ∧
  (∀ (s : State) (opens : Bool) (rest : List Bool), s.phase = .c6 →
    s.targetLength.toNat ≤ 512 → s.env.sink = opens :: rest →
    ∃ t, runPhase s = .next t ∧
      t.trace = .persist s.targetLength s.capWidth opens :: s.trace ∧
      t.sink = s.sink.persisted s.cfg opens
        (persistBytes s.cfg.sinkByteOrder s.capWidth s.cbuf s.targetLength.toNat))

/-- R124: the transition relation of `state`. A step that is not a restart keeps `state`, or is one of the
three moves of the table with its condition (D8, D17 for the fields of the response); none leads to Idle. The
write of `state` at N4 and at C7 comes after the other write of the label (log 28): at C7, only after the
loop was complete. -/
def Obligations.StateMovesOnlyAsTabled : Prop :=
  (∀ s t : State, s.Inv → s.noRestart = true → step s = .next t → t.state ≠ s.state →
    (s.state = .idle ∧ t.state = .negotiating ∧ s.phase = .i2 (ident s.tResp) ∧
      ident s.tResp = s.cfg.handheldId) ∨
    (s.state = .negotiating ∧ t.state = .capturing ∧ s.phase = .n4State (reverseBytes s.tResp) ∧
      s.tStat &&& s.cfg.errMask s.cfg.channel = 0 ∧
      1 ≤ (reverseBytes s.tResp).toNat ∧ (reverseBytes s.tResp).toNat ≤ 512) ∨
    (s.state = .capturing ∧ t.state = .negotiating ∧ s.phase = .c7State)) ∧
  (∀ s t : State, s.Inv → s.noRestart = true → step s = .next t → t.phase = .c7State →
    s.phase = .c7State ∨ (s.phase = .c7 ∧ s.capturedCount = s.targetLength))

/-- R133: the records change no block state and no step depends on them: with another history the same
step is taken, and only the new records are added to it. -/
def Obligations.NoStepDependsOnTheRecords : Prop :=
  ∀ (s : State) (history : List Event),
    (∀ t, step s = .next t →
      ∃ new, t.trace = new ++ s.trace ∧
        step { s with trace := history } = .next { t with trace := new ++ history }) ∧
    (∀ f, step s = .fault f → step { s with trace := history } = .fault f) ∧
    (∀ r, step s = .refused r → step { s with trace := history } = .refused r)
end

