-- ==== Sys2Proof/Laws/Codec.lean ====
section
/-!
SUPPORT. The encodings bit by bit: the fields of a control word (R63) and the bytes of a word. The proofs about decoding and about memory words cite these.
-/

namespace Sys2Proof

/-! ### Control words -/

@[simp] theorem cwChannel_controlWord (c : BitVec 2) (i o : BitVec 7) :
    cwChannel (controlWord c i o) = c := by
  ext k hk
  interval_cases k <;> simp [cwChannel, controlWord]

@[simp] theorem cwChannel2_controlWord (c : BitVec 2) (i o : BitVec 7) :
    cwChannel2 (controlWord c i o) = c := by
  ext k hk
  interval_cases k <;> simp [cwChannel2, controlWord]

@[simp] theorem cwInLen_controlWord (c : BitVec 2) (i o : BitVec 7) :
    cwInLen (controlWord c i o) = i := by
  ext k hk
  interval_cases k <;> simp [cwInLen, controlWord]

@[simp] theorem cwOutLen_controlWord (c : BitVec 2) (i o : BitVec 7) :
    cwOutLen (controlWord c i o) = o := by
  ext k hk
  interval_cases k <;> simp [cwOutLen, controlWord]

@[simp] theorem fixed_controlWord (c : BitVec 2) (i o : BitVec 7) :
    controlWord c i o &&& controlFixedMask = controlFixedValue := by
  ext k hk
  interval_cases k <;> simp [controlWord, controlFixedMask, controlFixedValue]

/-- START is set in every control word, so its write starts a transfer (R80). -/
@[simp] theorem start_controlWord (c : BitVec 2) (i o : BitVec 7) :
    (controlWord c i o).getLsbD 0 = true := by
  simp [controlWord]

@[simp] theorem isControlWord_controlWord (c : BitVec 2) (i o : BitVec 7) :
    isControlWord (controlWord c i o) = true := by
  simp [isControlWord]

/-- A word that passes R63 is the control word of its own fields: no bit is left out. -/
theorem controlWord_of_isControlWord (w : Word) (h : isControlWord w = true) :
    controlWord (cwChannel w) (cwInLen w) (cwOutLen w) = w := by
  simp only [isControlWord, Bool.and_eq_true, beq_iff_eq] at h
  obtain ⟨hm, hc⟩ := h
  have fixed (k : Nat) :
      (w.getLsbD k && controlFixedMask.getLsbD k) = controlFixedValue.getLsbD k := by
    rw [← hm, BitVec.getLsbD_and]
  have c0 : (cwChannel w).getLsbD 0 = (cwChannel2 w).getLsbD 0 := by rw [hc]
  have c1 : (cwChannel w).getLsbD 1 = (cwChannel2 w).getLsbD 1 := by rw [hc]
  simp [cwChannel, cwChannel2] at c0 c1
  clear hm hc
  apply BitVec.eq_of_getLsbD_eq
  intro k hk
  have b := fixed k
  interval_cases k <;>
    simp_all [controlWord, controlFixedMask, controlFixedValue, cwChannel, cwInLen, cwOutLen]

/-! ### Bytes of words -/

@[simp] theorem wordOfBytes_bytes (w : Word) :
    wordOfBytes (byteOfWord w 0) (byteOfWord w 1) (byteOfWord w 2) (byteOfWord w 3) = w := by
  apply BitVec.eq_of_getLsbD_eq
  intro k hk
  simp only [wordOfBytes, byteOfWord, BitVec.getLsbD_append]
  interval_cases k <;> simp

@[simp] theorem bytesOfWord_wordOfBytes (a b c d : Byte) :
    bytesOfWord (wordOfBytes a b c d) = [a, b, c, d] := by
  simp only [bytesOfWord, List.cons.injEq, and_true]
  refine ⟨?_, ?_, ?_, ?_⟩ <;>
  · apply BitVec.eq_of_getLsbD_eq
    intro k hk
    simp only [wordOfBytes, byteOfWord, BitVec.getLsbD_append, BitVec.getLsbD_extractLsb']
    interval_cases k <;> simp

/-! ### Decoding -/

theorem decode_bytesOfWord (w : Word) : decode (bytesOfWord w) = decodeControl w := by
  simp [bytesOfWord, decode]

/-- Decoding a control word gives the row that names its fields. -/
theorem decode_controlWord (c : BitVec 2) (i o : BitVec 7) :
    decode (bytesOfWord (controlWord c i o)) = .ok (controlInstr c i o) := by
  simp [decode_bytesOfWord, decodeControl]

theorem controlInstr_ping (c : BitVec 2) : controlInstr c 3 1 = cwPing c := by
  simp [controlInstr]

theorem controlInstr_data (c : BitVec 2) : controlInstr c 4 1 = cwData c := by
  simp [controlInstr]

theorem controlInstr_other (c : BitVec 2) (i o : BitVec 7) (h : hasOwnRow i o = false) :
    controlInstr c i o = .controlWord c i o := by
  simp [hasOwnRow] at h
  unfold controlInstr
  rw [if_neg, if_neg]
  · rintro ⟨ho, hi⟩
    exact (h ho).2 hi
  · rintro ⟨ho, hi⟩
    exact (h ho).1 hi

end Sys2Proof
end

