-- ==== Sys2Proof/Laws/Memory.lean ====
section
/-!
SUPPORT. The laws of memory: a read after a write, the canonical form kept by every write, and the same
for whole words.
-/

namespace Sys2Proof.Machine

theorem Memory.read_above (a : Nat) (m : Memory) (h : m.above a = true) :
    m.read a = unlistedByte := by
  induction m with
  | nil => rfl
  | cons c m ih =>
    obtain ⟨b, v⟩ := c
    simp only [Memory.above, Bool.and_eq_true, decide_eq_true_eq] at h
    simp only [Memory.read]
    rw [if_neg (by omega), ih h.2]

theorem Memory.above_mono {a b : Nat} (m : Memory) (hab : a ≤ b) (h : m.above b = true) :
    m.above a = true := by
  induction m with
  | nil => rfl
  | cons c m ih =>
    obtain ⟨d, v⟩ := c
    simp only [Memory.above, Bool.and_eq_true, decide_eq_true_eq] at h ⊢
    exact ⟨by omega, ih h.2⟩

/-! ### One byte -/

theorem Memory.read_cell (a x : Nat) (v : Byte) (m : Memory) (h : m.above a = true) :
    (Memory.cell a v m).read x = if x = a then v else m.read x := by
  unfold Memory.cell
  by_cases hv : v = unlistedByte
  · rw [if_pos hv]
    by_cases hx : x = a
    · rw [if_pos hx, hx, hv, Memory.read_above a m h]
    · rw [if_neg hx]
  · rw [if_neg hv, Memory.read]

/-- A read after a write, at the same address and at every other. -/
theorem Memory.read_write (m : Memory) (a x : Nat) (v : Byte) (h : m.wf = true) :
    (m.write a v).read x = if x = a then v else m.read x := by
  induction m with
  | nil => exact Memory.read_cell a x v [] rfl
  | cons c m ih =>
    obtain ⟨b, w⟩ := c
    simp only [Memory.wf, Bool.and_eq_true, decide_eq_true_eq] at h
    obtain ⟨⟨hw, hb⟩, hm⟩ := h
    simp only [Memory.write]
    by_cases hab : a < b
    · rw [if_pos hab, Memory.read_cell]
      simp only [Memory.above, Bool.and_eq_true, decide_eq_true_eq]
      exact ⟨hab, Memory.above_mono m (by omega) hb⟩
    · rw [if_neg hab]
      by_cases he : a = b
      · subst he
        rw [if_pos rfl, Memory.read_cell a x v m hb, Memory.read]
        by_cases hx : x = a
        · simp [hx]
        · simp [hx]
      · rw [if_neg he, Memory.read, Memory.read, ih hm]
        by_cases hx : x = b
        · rw [if_pos hx, if_pos hx, if_neg (by omega)]
        · rw [if_neg hx, if_neg hx]

theorem Memory.above_cell {b a : Nat} (v : Byte) (m : Memory) (hba : b < a)
    (h : m.above b = true) : (Memory.cell a v m).above b = true := by
  unfold Memory.cell
  split
  · exact h
  · simp [Memory.above, hba, h]

theorem Memory.above_write {b a : Nat} (v : Byte) (m : Memory) (hba : b < a)
    (h : m.above b = true) : (m.write a v).above b = true := by
  induction m with
  | nil => exact Memory.above_cell v [] hba rfl
  | cons c m ih =>
    obtain ⟨d, w⟩ := c
    have h' := h
    simp only [Memory.above, Bool.and_eq_true, decide_eq_true_eq] at h'
    simp only [Memory.write]
    split
    · exact Memory.above_cell v _ hba h
    · split
      · exact Memory.above_cell v m hba h'.2
      · simp [Memory.above, h'.1, ih h'.2]

theorem Memory.wf_cell (a : Nat) (v : Byte) (m : Memory) (ha : m.above a = true)
    (h : m.wf = true) : (Memory.cell a v m).wf = true := by
  unfold Memory.cell
  split
  · exact h
  · rename_i hv
    simp [Memory.wf, hv, ha, h]

/-- A write keeps the canonical form. -/
theorem Memory.wf_write (m : Memory) (a : Nat) (v : Byte) (h : m.wf = true) :
    (m.write a v).wf = true := by
  induction m with
  | nil => exact Memory.wf_cell a v [] rfl rfl
  | cons c m ih =>
    obtain ⟨b, w⟩ := c
    have h' := h
    simp only [Memory.wf, Bool.and_eq_true, decide_eq_true_eq] at h'
    obtain ⟨⟨hw, hb⟩, hm⟩ := h'
    simp only [Memory.write]
    split
    · rename_i hab
      refine Memory.wf_cell a v _ ?_ h
      simp only [Memory.above, Bool.and_eq_true, decide_eq_true_eq]
      exact ⟨hab, Memory.above_mono m (by omega) hb⟩
    · split
      · rename_i he
        subst he
        exact Memory.wf_cell a v m hb hm
      · simp only [Memory.wf, Bool.and_eq_true, decide_eq_true_eq]
        exact ⟨⟨hw, Memory.above_write v m (by omega) hb⟩, ih hm⟩

theorem Memory.below_cell (n a : Nat) (v : Byte) (m : Memory) (ha : a < n)
    (h : m.below n = true) : (Memory.cell a v m).below n = true := by
  unfold Memory.cell
  split
  · exact h
  · simp [Memory.below, ha, h]

/-- A write below a bound keeps a memory below it. -/
theorem Memory.below_write (n : Nat) (m : Memory) (a : Nat) (v : Byte) (ha : a < n)
    (h : m.below n = true) : (m.write a v).below n = true := by
  induction m with
  | nil => exact Memory.below_cell n a v [] ha rfl
  | cons c m ih =>
    obtain ⟨b, w⟩ := c
    have h' := h
    simp only [Memory.below, Bool.and_eq_true, decide_eq_true_eq] at h'
    simp only [Memory.write]
    split
    · exact Memory.below_cell n a v _ ha h
    · split
      · exact Memory.below_cell n a v m ha h'.2
      · simp [Memory.below, h'.1, ih h'.2]

/-! ### Whole words -/

theorem Memory.wf_writeWord (m : Memory) (i : Nat) (v : Word) (h : m.wf = true) :
    (m.writeWord i v).wf = true :=
  Memory.wf_write _ _ _ (Memory.wf_write _ _ _ (Memory.wf_write _ _ _ (Memory.wf_write _ _ _ h)))

theorem Memory.below_writeWord (n : Nat) (m : Memory) (i : Nat) (v : Word) (hi : 4 * i + 3 < n)
    (h : m.below n = true) : (m.writeWord i v).below n = true :=
  Memory.below_write _ _ _ _ hi (Memory.below_write _ _ _ _ (by omega)
    (Memory.below_write _ _ _ _ (by omega) (Memory.below_write _ _ _ _ (by omega) h)))

/-- The bytes after a word write: the word's own four, and every other as before. -/
theorem Memory.read_writeWord (m : Memory) (i x : Nat) (v : Word) (h : m.wf = true) :
    (m.writeWord i v).read x =
      if x = 4 * i + 3 then byteOfWord v 3 else if x = 4 * i + 2 then byteOfWord v 2
      else if x = 4 * i + 1 then byteOfWord v 1 else if x = 4 * i then byteOfWord v 0
      else m.read x := by
  have h0 := Memory.wf_write m (4 * i) (byteOfWord v 0) h
  have h1 := Memory.wf_write _ (4 * i + 1) (byteOfWord v 1) h0
  have h2 := Memory.wf_write _ (4 * i + 2) (byteOfWord v 2) h1
  unfold Memory.writeWord
  rw [Memory.read_write _ _ _ _ h2, Memory.read_write _ _ _ _ h1, Memory.read_write _ _ _ _ h0,
    Memory.read_write _ _ _ _ h]

/-- An entry nothing has written reads 0 (R29). -/
@[simp] theorem Memory.readWord_nil (i : Nat) : Memory.readWord [] i = 0 := by
  simp only [Memory.readWord, Memory.read]
  decide

/-- A word reads back as written. -/
theorem Memory.readWord_writeWord_same (m : Memory) (i : Nat) (v : Word) (h : m.wf = true) :
    (m.writeWord i v).readWord i = v := by
  unfold Memory.readWord
  simp only [Memory.read_writeWord m i _ v h]
  simp

/-- Every other word is unchanged. -/
theorem Memory.readWord_writeWord_other (m : Memory) (i j : Nat) (v : Word) (h : m.wf = true)
    (hij : j ≠ i) : (m.writeWord i v).readWord j = m.readWord j := by
  unfold Memory.readWord
  simp only [Memory.read_writeWord m i _ v h]
  repeat rw [if_neg (by omega)]

/-! ### Several bytes -/

theorem Memory.wf_writeBytes (bytes : List Byte) (m : Memory) (a : Nat) (h : m.wf = true) :
    (m.writeBytes a bytes).wf = true := by
  induction bytes generalizing m a with
  | nil => exact h
  | cons v bytes ih => exact ih _ _ (Memory.wf_write m a v h)

theorem Memory.below_writeBytes (n : Nat) (bytes : List Byte) (m : Memory) (a : Nat)
    (ha : a + bytes.length ≤ n) (h : m.below n = true) : (m.writeBytes a bytes).below n = true := by
  induction bytes generalizing m a with
  | nil => exact h
  | cons v bytes ih =>
    simp only [List.length_cons] at ha
    exact ih _ _ (by omega) (Memory.below_write n m a v (by omega) h)

/-- The bytes after a write of several: those written in order from `a` on, and every other as before. -/
theorem Memory.read_writeBytes (bytes : List Byte) (m : Memory) (a x : Nat) (h : m.wf = true) :
    (m.writeBytes a bytes).read x =
      if a ≤ x then bytes[x - a]?.getD (m.read x) else m.read x := by
  induction bytes generalizing m a with
  | nil => simp [Memory.writeBytes]
  | cons v bytes ih =>
    simp only [Memory.writeBytes]
    rw [ih _ _ (Memory.wf_write m a v h), Memory.read_write m a x v h]
    by_cases hx : x = a
    · subst hx
      simp
    · by_cases hle : a ≤ x
      · rw [if_pos (by omega), if_neg hx, if_pos hle,
          show x - a = (x - (a + 1)) + 1 by omega, List.getElem?_cons_succ]
      · rw [if_neg (by omega), if_neg hx, if_neg hle]

/-- A write of bytes above a word leaves it. -/
theorem Memory.readWord_writeBytes_above (bytes : List Byte) (m : Memory) (a i : Nat)
    (h : m.wf = true) (hi : 4 * i + 3 < a) : (m.writeBytes a bytes).readWord i = m.readWord i := by
  unfold Memory.readWord
  simp only [Memory.read_writeBytes bytes m a _ h]
  repeat rw [if_neg (by omega)]

end Sys2Proof.Machine
end

