-- ==== Sys2Proof/Laws/State.lean ====
section
/-!
SUPPORT. Every field after every update of the state: one lemma each, so that no later proof unfolds a
record update.
-/

namespace Sys2Proof.Machine

variable (s : State)

@[simp] theorem State.goto_cfg (p : Phase) : (s.goto p).cfg = s.cfg := rfl
@[simp] theorem State.goto_state (p : Phase) : (s.goto p).state = s.state := rfl
@[simp] theorem State.goto_phase (p : Phase) : (s.goto p).phase = p := rfl
@[simp] theorem State.goto_deviceId (p : Phase) : (s.goto p).deviceId = s.deviceId := rfl
@[simp] theorem State.goto_targetLength (p : Phase) : (s.goto p).targetLength = s.targetLength := rfl
@[simp] theorem State.goto_capturedCount (p : Phase) : (s.goto p).capturedCount = s.capturedCount := rfl
@[simp] theorem State.goto_widthMode (p : Phase) : (s.goto p).widthMode = s.widthMode := rfl
@[simp] theorem State.goto_capWidth (p : Phase) : (s.goto p).capWidth = s.capWidth := rfl
@[simp] theorem State.goto_halted (p : Phase) : (s.goto p).halted = s.halted := rfl
@[simp] theorem State.goto_fault (p : Phase) : (s.goto p).fault = s.fault := rfl
@[simp] theorem State.goto_polls (p : Phase) : (s.goto p).polls = s.polls := rfl
@[simp] theorem State.goto_tStat (p : Phase) : (s.goto p).tStat = s.tStat := rfl
@[simp] theorem State.goto_tResp (p : Phase) : (s.goto p).tResp = s.tResp := rfl
@[simp] theorem State.goto_cbuf (p : Phase) : (s.goto p).cbuf = s.cbuf := rfl
@[simp] theorem State.goto_pendExit (p : Phase) : (s.goto p).pendExit = s.pendExit := rfl
@[simp] theorem State.goto_pendToggle (p : Phase) : (s.goto p).pendToggle = s.pendToggle := rfl
@[simp] theorem State.goto_link (p : Phase) : (s.goto p).link = s.link := rfl
@[simp] theorem State.goto_sink (p : Phase) : (s.goto p).sink = s.sink := rfl
@[simp] theorem State.goto_env (p : Phase) : (s.goto p).env = s.env := rfl
@[simp] theorem State.goto_trace (p : Phase) : (s.goto p).trace = s.trace := rfl
@[simp] theorem State.goto_freeDraws (p : Phase) : (s.goto p).freeDraws = s.freeDraws := rfl

@[simp] theorem State.record_cfg (e : Event) : (s.record e).cfg = s.cfg := rfl
@[simp] theorem State.record_state (e : Event) : (s.record e).state = s.state := rfl
@[simp] theorem State.record_phase (e : Event) : (s.record e).phase = s.phase := rfl
@[simp] theorem State.record_deviceId (e : Event) : (s.record e).deviceId = s.deviceId := rfl
@[simp] theorem State.record_targetLength (e : Event) : (s.record e).targetLength = s.targetLength := rfl
@[simp] theorem State.record_capturedCount (e : Event) : (s.record e).capturedCount = s.capturedCount := rfl
@[simp] theorem State.record_widthMode (e : Event) : (s.record e).widthMode = s.widthMode := rfl
@[simp] theorem State.record_capWidth (e : Event) : (s.record e).capWidth = s.capWidth := rfl
@[simp] theorem State.record_halted (e : Event) : (s.record e).halted = s.halted := rfl
@[simp] theorem State.record_fault (e : Event) : (s.record e).fault = s.fault := rfl
@[simp] theorem State.record_polls (e : Event) : (s.record e).polls = s.polls := rfl
@[simp] theorem State.record_tStat (e : Event) : (s.record e).tStat = s.tStat := rfl
@[simp] theorem State.record_tResp (e : Event) : (s.record e).tResp = s.tResp := rfl
@[simp] theorem State.record_cbuf (e : Event) : (s.record e).cbuf = s.cbuf := rfl
@[simp] theorem State.record_pendExit (e : Event) : (s.record e).pendExit = s.pendExit := rfl
@[simp] theorem State.record_pendToggle (e : Event) : (s.record e).pendToggle = s.pendToggle := rfl
@[simp] theorem State.record_link (e : Event) : (s.record e).link = s.link := rfl
@[simp] theorem State.record_sink (e : Event) : (s.record e).sink = s.sink := rfl
@[simp] theorem State.record_env (e : Event) : (s.record e).env = s.env := rfl
@[simp] theorem State.record_trace (e : Event) : (s.record e).trace = e :: s.trace := rfl
@[simp] theorem State.record_freeDraws (e : Event) : (s.record e).freeDraws = s.freeDraws := rfl

@[simp] theorem State.log_cfg (r : LogRecord) : (s.log r).cfg = s.cfg := rfl
@[simp] theorem State.log_state (r : LogRecord) : (s.log r).state = s.state := rfl
@[simp] theorem State.log_phase (r : LogRecord) : (s.log r).phase = s.phase := rfl
@[simp] theorem State.log_deviceId (r : LogRecord) : (s.log r).deviceId = s.deviceId := rfl
@[simp] theorem State.log_targetLength (r : LogRecord) : (s.log r).targetLength = s.targetLength := rfl
@[simp] theorem State.log_capturedCount (r : LogRecord) : (s.log r).capturedCount = s.capturedCount := rfl
@[simp] theorem State.log_widthMode (r : LogRecord) : (s.log r).widthMode = s.widthMode := rfl
@[simp] theorem State.log_capWidth (r : LogRecord) : (s.log r).capWidth = s.capWidth := rfl
@[simp] theorem State.log_halted (r : LogRecord) : (s.log r).halted = s.halted := rfl
@[simp] theorem State.log_fault (r : LogRecord) : (s.log r).fault = s.fault := rfl
@[simp] theorem State.log_polls (r : LogRecord) : (s.log r).polls = s.polls := rfl
@[simp] theorem State.log_tStat (r : LogRecord) : (s.log r).tStat = s.tStat := rfl
@[simp] theorem State.log_tResp (r : LogRecord) : (s.log r).tResp = s.tResp := rfl
@[simp] theorem State.log_cbuf (r : LogRecord) : (s.log r).cbuf = s.cbuf := rfl
@[simp] theorem State.log_pendExit (r : LogRecord) : (s.log r).pendExit = s.pendExit := rfl
@[simp] theorem State.log_pendToggle (r : LogRecord) : (s.log r).pendToggle = s.pendToggle := rfl
@[simp] theorem State.log_link (r : LogRecord) : (s.log r).link = s.link := rfl
@[simp] theorem State.log_sink (r : LogRecord) : (s.log r).sink = s.sink := rfl
@[simp] theorem State.log_env (r : LogRecord) : (s.log r).env = s.env := rfl
@[simp] theorem State.log_trace (r : LogRecord) : (s.log r).trace = .log r :: s.trace := rfl
@[simp] theorem State.log_freeDraws (r : LogRecord) : (s.log r).freeDraws = s.freeDraws := rfl

@[simp] theorem State.setLink_cfg (l : Link) : (s.setLink l).cfg = s.cfg := rfl
@[simp] theorem State.setLink_state (l : Link) : (s.setLink l).state = s.state := rfl
@[simp] theorem State.setLink_phase (l : Link) : (s.setLink l).phase = s.phase := rfl
@[simp] theorem State.setLink_deviceId (l : Link) : (s.setLink l).deviceId = s.deviceId := rfl
@[simp] theorem State.setLink_targetLength (l : Link) : (s.setLink l).targetLength = s.targetLength := rfl
@[simp] theorem State.setLink_capturedCount (l : Link) : (s.setLink l).capturedCount = s.capturedCount := rfl
@[simp] theorem State.setLink_widthMode (l : Link) : (s.setLink l).widthMode = s.widthMode := rfl
@[simp] theorem State.setLink_capWidth (l : Link) : (s.setLink l).capWidth = s.capWidth := rfl
@[simp] theorem State.setLink_halted (l : Link) : (s.setLink l).halted = s.halted := rfl
@[simp] theorem State.setLink_fault (l : Link) : (s.setLink l).fault = s.fault := rfl
@[simp] theorem State.setLink_polls (l : Link) : (s.setLink l).polls = s.polls := rfl
@[simp] theorem State.setLink_tStat (l : Link) : (s.setLink l).tStat = s.tStat := rfl
@[simp] theorem State.setLink_tResp (l : Link) : (s.setLink l).tResp = s.tResp := rfl
@[simp] theorem State.setLink_cbuf (l : Link) : (s.setLink l).cbuf = s.cbuf := rfl
@[simp] theorem State.setLink_pendExit (l : Link) : (s.setLink l).pendExit = s.pendExit := rfl
@[simp] theorem State.setLink_pendToggle (l : Link) : (s.setLink l).pendToggle = s.pendToggle := rfl
@[simp] theorem State.setLink_link (l : Link) : (s.setLink l).link = l := rfl
@[simp] theorem State.setLink_sink (l : Link) : (s.setLink l).sink = s.sink := rfl
@[simp] theorem State.setLink_env (l : Link) : (s.setLink l).env = s.env := rfl
@[simp] theorem State.setLink_trace (l : Link) : (s.setLink l).trace = s.trace := rfl
@[simp] theorem State.setLink_freeDraws (l : Link) : (s.setLink l).freeDraws = s.freeDraws := rfl

@[simp] theorem State.setEntry_cfg (i : Nat) (v : Word) : (s.setEntry i v).cfg = s.cfg := rfl
@[simp] theorem State.setEntry_state (i : Nat) (v : Word) : (s.setEntry i v).state = s.state := rfl
@[simp] theorem State.setEntry_phase (i : Nat) (v : Word) : (s.setEntry i v).phase = s.phase := rfl
@[simp] theorem State.setEntry_deviceId (i : Nat) (v : Word) : (s.setEntry i v).deviceId = s.deviceId := rfl
@[simp] theorem State.setEntry_targetLength (i : Nat) (v : Word) : (s.setEntry i v).targetLength = s.targetLength := rfl
@[simp] theorem State.setEntry_capturedCount (i : Nat) (v : Word) : (s.setEntry i v).capturedCount = s.capturedCount := rfl
@[simp] theorem State.setEntry_widthMode (i : Nat) (v : Word) : (s.setEntry i v).widthMode = s.widthMode := rfl
@[simp] theorem State.setEntry_capWidth (i : Nat) (v : Word) : (s.setEntry i v).capWidth = s.capWidth := rfl
@[simp] theorem State.setEntry_halted (i : Nat) (v : Word) : (s.setEntry i v).halted = s.halted := rfl
@[simp] theorem State.setEntry_fault (i : Nat) (v : Word) : (s.setEntry i v).fault = s.fault := rfl
@[simp] theorem State.setEntry_polls (i : Nat) (v : Word) : (s.setEntry i v).polls = s.polls := rfl
@[simp] theorem State.setEntry_tStat (i : Nat) (v : Word) : (s.setEntry i v).tStat = s.tStat := rfl
@[simp] theorem State.setEntry_tResp (i : Nat) (v : Word) : (s.setEntry i v).tResp = s.tResp := rfl
@[simp] theorem State.setEntry_cbuf (i : Nat) (v : Word) : (s.setEntry i v).cbuf = s.cbuf.writeWord i v := rfl
@[simp] theorem State.setEntry_pendExit (i : Nat) (v : Word) : (s.setEntry i v).pendExit = s.pendExit := rfl
@[simp] theorem State.setEntry_pendToggle (i : Nat) (v : Word) : (s.setEntry i v).pendToggle = s.pendToggle := rfl
@[simp] theorem State.setEntry_link (i : Nat) (v : Word) : (s.setEntry i v).link = s.link := rfl
@[simp] theorem State.setEntry_sink (i : Nat) (v : Word) : (s.setEntry i v).sink = s.sink := rfl
@[simp] theorem State.setEntry_env (i : Nat) (v : Word) : (s.setEntry i v).env = s.env := rfl
@[simp] theorem State.setEntry_trace (i : Nat) (v : Word) : (s.setEntry i v).trace = s.trace := rfl
@[simp] theorem State.setEntry_freeDraws (i : Nat) (v : Word) : (s.setEntry i v).freeDraws = s.freeDraws := rfl

@[simp] theorem State.raise_cfg (f : FaultCode) : (s.raise f).cfg = s.cfg := rfl
@[simp] theorem State.raise_state (f : FaultCode) : (s.raise f).state = s.state := rfl
@[simp] theorem State.raise_phase (f : FaultCode) : (s.raise f).phase = s.phase := rfl
@[simp] theorem State.raise_deviceId (f : FaultCode) : (s.raise f).deviceId = s.deviceId := rfl
@[simp] theorem State.raise_targetLength (f : FaultCode) : (s.raise f).targetLength = s.targetLength := rfl
@[simp] theorem State.raise_capturedCount (f : FaultCode) : (s.raise f).capturedCount = s.capturedCount := rfl
@[simp] theorem State.raise_widthMode (f : FaultCode) : (s.raise f).widthMode = s.widthMode := rfl
@[simp] theorem State.raise_capWidth (f : FaultCode) : (s.raise f).capWidth = s.capWidth := rfl
@[simp] theorem State.raise_halted (f : FaultCode) : (s.raise f).halted = s.halted := rfl
@[simp] theorem State.raise_fault (f : FaultCode) : (s.raise f).fault = some f := rfl
@[simp] theorem State.raise_polls (f : FaultCode) : (s.raise f).polls = s.polls := rfl
@[simp] theorem State.raise_tStat (f : FaultCode) : (s.raise f).tStat = s.tStat := rfl
@[simp] theorem State.raise_tResp (f : FaultCode) : (s.raise f).tResp = s.tResp := rfl
@[simp] theorem State.raise_cbuf (f : FaultCode) : (s.raise f).cbuf = s.cbuf := rfl
@[simp] theorem State.raise_pendExit (f : FaultCode) : (s.raise f).pendExit = s.pendExit := rfl
@[simp] theorem State.raise_pendToggle (f : FaultCode) : (s.raise f).pendToggle = s.pendToggle := rfl
@[simp] theorem State.raise_link (f : FaultCode) : (s.raise f).link = s.link := rfl
@[simp] theorem State.raise_sink (f : FaultCode) : (s.raise f).sink = s.sink := rfl
@[simp] theorem State.raise_env (f : FaultCode) : (s.raise f).env = s.env := rfl
@[simp] theorem State.raise_trace (f : FaultCode) : (s.raise f).trace = s.trace := rfl
@[simp] theorem State.raise_freeDraws (f : FaultCode) : (s.raise f).freeDraws = s.freeDraws := rfl

@[simp] theorem State.latch_cfg (x y : Bool) : (s.latch x y).cfg = s.cfg := rfl
@[simp] theorem State.latch_state (x y : Bool) : (s.latch x y).state = s.state := rfl
@[simp] theorem State.latch_phase (x y : Bool) : (s.latch x y).phase = s.phase := rfl
@[simp] theorem State.latch_deviceId (x y : Bool) : (s.latch x y).deviceId = s.deviceId := rfl
@[simp] theorem State.latch_targetLength (x y : Bool) : (s.latch x y).targetLength = s.targetLength := rfl
@[simp] theorem State.latch_capturedCount (x y : Bool) : (s.latch x y).capturedCount = s.capturedCount := rfl
@[simp] theorem State.latch_widthMode (x y : Bool) : (s.latch x y).widthMode = s.widthMode := rfl
@[simp] theorem State.latch_capWidth (x y : Bool) : (s.latch x y).capWidth = s.capWidth := rfl
@[simp] theorem State.latch_halted (x y : Bool) : (s.latch x y).halted = s.halted := rfl
@[simp] theorem State.latch_fault (x y : Bool) : (s.latch x y).fault = s.fault := rfl
@[simp] theorem State.latch_polls (x y : Bool) : (s.latch x y).polls = s.polls := rfl
@[simp] theorem State.latch_tStat (x y : Bool) : (s.latch x y).tStat = s.tStat := rfl
@[simp] theorem State.latch_tResp (x y : Bool) : (s.latch x y).tResp = s.tResp := rfl
@[simp] theorem State.latch_cbuf (x y : Bool) : (s.latch x y).cbuf = s.cbuf := rfl
@[simp] theorem State.latch_pendExit (x y : Bool) : (s.latch x y).pendExit = (s.pendExit || x) := rfl
@[simp] theorem State.latch_pendToggle (x y : Bool) : (s.latch x y).pendToggle = (s.pendToggle || y) := rfl
@[simp] theorem State.latch_link (x y : Bool) : (s.latch x y).link = s.link := rfl
@[simp] theorem State.latch_sink (x y : Bool) : (s.latch x y).sink = s.sink := rfl
@[simp] theorem State.latch_env (x y : Bool) : (s.latch x y).env = s.env := rfl
@[simp] theorem State.latch_trace (x y : Bool) : (s.latch x y).trace = s.trace := rfl
@[simp] theorem State.latch_freeDraws (x y : Bool) : (s.latch x y).freeDraws = s.freeDraws := rfl

end Sys2Proof.Machine
end

