-- ==== Sys2Proof/Laws/Ops.lean ====
section
/-!
SUPPORT. One lemma for each shared operation: what it answers, once for all. The proofs about
instructions and steps cite these and do not unfold the operations.
-/

namespace Sys2Proof.Machine

/-! ### Checked steps -/

@[simp] theorem finish_ok (s t : State) : finish s (.ok t) = .next t := rfl

@[simp] theorem finish_error (s : State) (f : FaultCode) :
    finish s (.error f) = .next (s.raise f) := rfl

/-- A checked step that answers a next state either raised the access's fault and nothing else, or is
the access's own state. -/
theorem finish_cases {s t : State} {r : Except FaultCode State} (h : finish s r = .next t) :
    (∃ f, r = .error f ∧ t = s.raise f) ∨ r = .ok t := by
  cases r with
  | ok u => right; cases h; rfl
  | error f => left; exact ⟨f, rfl, by cases h; rfl⟩

/-- A checked step always answers a next state. -/
theorem finish_next (s : State) (r : Except FaultCode State) : ∃ t, finish s r = .next t := by
  cases r with
  | ok u => exact ⟨u, rfl⟩
  | error f => exact ⟨s.raise f, rfl⟩

/-! ### Configuration -/

theorem Config.aligned_addr {c : Config} (h : c.aligned = true) (r : PortReg) :
    isAligned (c.addr r) = true := by
  simp only [Config.aligned, Bool.and_eq_true] at h
  cases r <;> simp only [Config.addr, isAligned, h.1.1, h.1.2]

theorem Config.aligned_stat {c : Config} (h : c.aligned = true) :
    isAligned c.addrStat = true := Config.aligned_addr h .stat

theorem Config.aligned_buf {c : Config} (h : c.aligned = true) : isAligned (c.bufAddr 0) = true := by
  simp only [Config.aligned, Bool.and_eq_true] at h
  simpa [Config.bufAddr, isAligned] using h.2

theorem Config.bufWords_pos {c : Config} (h : c.legal = true) : 1 ≤ c.cmdBufWords := by
  simp only [Config.legal, Bool.and_eq_true] at h
  exact Nat.le_of_ble_eq_true h.1.2

theorem Config.pollBound_pos {c : Config} (h : c.legal = true) {b : Nat}
    (hb : c.pollBound = some b) : 1 ≤ b := by
  simp only [Config.legal, Bool.and_eq_true, hb] at h
  exact Nat.le_of_ble_eq_true h.2

theorem Config.bitsBelow_zero (n : Nat) : Config.bitsBelow 0#32 n = 0 := by
  induction n with
  | zero => rfl
  | succ n ih => simp [Config.bitsBelow, ih]

theorem Config.busyMask_ne {c : Config} (h : c.legal = true) : c.busyMask ≠ 0#32 := by
  intro h0
  simp only [Config.legal, Bool.and_eq_true, h0, Config.popcount, Config.bitsBelow_zero] at h
  simp at h

/-- With a legal configuration XBUF word 0 is always accessible. -/
theorem bufFault_zero {c : Config} (hl : c.legal = true) (ha : c.aligned = true) :
    bufFault c 0 = none := by
  have := Config.bufWords_pos hl
  simp [bufFault, Config.aligned_buf ha, show ¬ c.cmdBufWords = 0 by omega]

/-! ### Ports and buffer -/

theorem portWrite_ok {s : State} (ha : s.cfg.aligned = true) (r : PortReg) (v : Word) :
    portWrite r v s = .ok ((s.setLink (s.link.written r v)).record (portWriteEvent r v)) := by
  simp [portWrite, Config.aligned_addr ha r]

theorem statRead_ok {s : State} (ha : s.cfg.aligned = true) :
    statRead s = .ok (s.link.stat, s.record (.rStat s.link.stat)) := by
  simp [statRead, Config.aligned_stat ha]

theorem bufWrite_ok {s : State} (hl : s.cfg.legal = true) (ha : s.cfg.aligned = true) (v : Word) :
    bufWrite 0 v s =
      .ok ((s.setLink { s.link with xbuf := s.link.xbuf.writeWord 0 v }).record (.wb 0 v)) := by
  simp [bufWrite, bufFault_zero hl ha]

theorem bufRead_ok {s : State} (hl : s.cfg.legal = true) (ha : s.cfg.aligned = true) :
    bufRead 0 s = .ok (s.link.xbuf.readWord 0, s.record (.rb 0 (s.link.xbuf.readWord 0))) := by
  simp [bufRead, bufFault_zero hl ha]

/-- With a legal configuration a poll reads busy exactly when the controller is. -/
theorem readsBusy_eq {c : Config} (h : c.legal = true) (l : Link) : readsBusy c l = l.busy := by
  have hm := Config.busyMask_ne h
  have key (x : Word) : (x &&& ~~~c.busyMask ||| (if l.busy = true then c.busyMask else 0)) &&&
      c.busyMask = if l.busy = true then c.busyMask else 0 := by
    apply BitVec.eq_of_getLsbD_eq
    intro k hk
    cases l.busy
    · simp
    · simp only [if_true, BitVec.getLsbD_and, BitVec.getLsbD_or]
      cases c.busyMask.getLsbD k <;> simp
  unfold readsBusy busyWord
  simp only [key]
  cases l.busy <;> simp [hm]

/-- A poll with the port addresses aligned. -/
theorem pollBusy_ok {s : State} (ha : s.cfg.aligned = true) :
    pollBusy s = .ok (readsBusy (controllerPoll s).cfg (controllerPoll s).link,
      (controllerPoll s).record
        (.rBusy (readsBusy (controllerPoll s).cfg (controllerPoll s).link))) := by
  simp [pollBusy, Config.aligned_addr ha]

/-- Everything the controller's part in a poll can do. -/
theorem controllerPoll_cases (s : State) :
    (s.link.busy = false ∧ controllerPoll s = s) ∨
    (s.link.busy = true ∧ s.env.xfers = [] ∧ controllerPoll s = s) ∨
    (s.link.busy = true ∧ ∃ n st r more rest, s.env.xfers = ⟨n + 1, st, r, more⟩ :: rest ∧
      controllerPoll s = { s with env := { s.env with xfers := ⟨n, st, r, more⟩ :: rest } }) ∨
    (s.link.busy = true ∧ ∃ st r more rest, s.env.xfers = ⟨0, st, r, more⟩ :: rest ∧
      controllerPoll s =
        { s with
          link := s.link.answered s.cfg ⟨0, st, r, more⟩
          env := { s.env with xfers := rest } }) := by
  unfold controllerPoll
  cases hb : s.link.busy with
  | false => left; simp
  | true =>
    right
    cases hx : s.env.xfers with
    | nil => left; simp
    | cons a rest =>
      right
      obtain ⟨n, st, r, more⟩ := a
      cases n with
      | zero => right; exact ⟨rfl, st, r, more, rest, rfl, rfl⟩
      | succ n => left; exact ⟨rfl, n, st, r, more, rest, rfl, rfl⟩

/-- A transfer writes XBUF word 0 and no byte at or past its span; every byte of the span above word 0 that
the answer has takes it (R43, R58). -/
theorem Link.read_answered {l : Link} (h : l.xbuf.wf = true) (c : Config) (a : XferAnswer) {x : Nat}
    (hx : 4 ≤ x) : (l.answered c a).xbuf.read x =
      if x < l.receiveSpan c then a.more[x - 4]?.getD (l.xbuf.read x) else l.xbuf.read x := by
  have hw := Memory.wf_writeWord l.xbuf 0 a.resp h
  have h0 : (l.xbuf.writeWord 0 a.resp).read x = l.xbuf.read x := by
    rw [Memory.read_writeWord _ _ _ _ h]
    repeat rw [if_neg (by omega)]
  simp only [Link.answered, Link.received, Memory.read_writeBytes _ _ _ _ hw, if_pos hx, h0,
    List.getElem?_take]
  by_cases hs : x < l.receiveSpan c
  · rw [if_pos (by omega), if_pos hs]
  · rw [if_neg (by omega), if_neg hs, Option.getD_none]

/-- XBUF word 0 after a transfer is the answer's (R146). -/
theorem Link.readWord_answered {l : Link} (h : l.xbuf.wf = true) (c : Config) (a : XferAnswer) :
    (l.answered c a).xbuf.readWord 0 = a.resp := by
  have hw := Memory.wf_writeWord l.xbuf 0 a.resp h
  simp only [Link.answered, Memory.readWord_writeBytes_above _ _ 4 0 hw (by omega),
    Memory.readWord_writeWord_same _ _ _ h]

theorem Link.wf_answered {l : Link} (h : l.xbuf.wf = true) (c : Config) (a : XferAnswer) :
    (l.answered c a).xbuf.wf = true :=
  Memory.wf_writeBytes _ _ _ (Memory.wf_writeWord _ _ _ h)

/-- With a legal configuration a transfer keeps XBUF within its CMD_BUF_WORDS words (R41). -/
theorem Link.below_answered {l : Link} {c : Config} (hl : c.legal = true)
    (h : l.xbuf.below (4 * c.cmdBufWords) = true) (a : XferAnswer) :
    (l.answered c a).xbuf.below (4 * c.cmdBufWords) = true := by
  have hb := Config.bufWords_pos hl
  refine Memory.below_writeBytes _ _ _ _ ?_ (Memory.below_writeWord _ _ _ _ (by omega) h)
  simp only [Link.received, Link.receiveSpan, List.length_take]
  omega

/-- A transfer of at most four response bytes writes XBUF word 0 only. -/
theorem Link.received_nil {l : Link} (h : (cwInLen l.ctrl).toNat ≤ 4) (c : Config) (a : XferAnswer) :
    l.received c a = [] := by
  simp only [Link.received, Link.receiveSpan]
  rw [show 4 * min (((cwInLen l.ctrl).toNat + 3) / 4) c.cmdBufWords - 4 = 0 by omega, List.take_zero]

/-! ### Control words that may be written -/

/-- A control word of the encoder is refused exactly where a length is 0 (R70). -/
theorem controlRefusal_controlWord (c : BitVec 2) (n o : BitVec 7) :
    controlRefusal (controlWord c n o) =
      if n = 0 ∨ o = 0 then some (.zeroLength (controlWord c n o)) else none := by
  simp [controlRefusal, hasZeroLength]

/-- A word that R70 gives no meaning is refused at the control-word write. -/
theorem controlWriteStep_refused {cw : Word} {why : Refusal} (h : controlRefusal cw = some why)
    (x : Transfer) (s : State) : controlWriteStep cw x s = .refused why := by
  simp [controlWriteStep, h]

/-! ### The capture buffer -/

theorem memWrite_ok {i : Nat} (hi : i < Config.capMax) (v : Word) (s : State) :
    memWrite i v s = .ok ((s.setEntry i v).record (.cb i v)) := by
  simp [memWrite, hi]

theorem memWrite_error {i : Nat} (hi : Config.capMax ≤ i) (v : Word) (s : State) :
    memWrite i v s = .error (.capacityExceeded i) := by
  simp [memWrite, Nat.not_lt.mpr hi]

/-! ### Steps of the machine -/

/-- Everything a step with a next state can be: a restart, a halted block standing, or a block step under
the guard of R32. -/
theorem step_cases {s t : State} (h : step s = .next t) :
    (∃ c, (hostInput s).1 = some c ∧ t = (hostInput s).2.hostReset c) ∨
    ((hostInput s).1 = none ∧ (hostInput s).2.cfg.legal = true ∧ (hostInput s).2.fault = none ∧
      (((hostInput s).2.halted = true ∧ t = (hostInput s).2) ∨
       ((hostInput s).2.halted = false ∧
        guardInvariant (hostInput s).2 (runPhase (hostInput s).2) = .next t))) := by
  unfold step machineStep at h
  cases hc : (hostInput s).1 with
  | some c =>
    left
    rw [hc] at h
    cases h
    exact ⟨c, rfl, rfl⟩
  | none =>
    right
    rw [hc] at h
    simp only [blockStep] at h
    split at h
    · rename_i hl
      cases hf : (hostInput s).2.fault with
      | some f => rw [hf] at h; cases h
      | none =>
        rw [hf] at h
        simp only at h
        split at h
        · rename_i hh
          cases h
          exact ⟨rfl, hl, rfl, .inl ⟨hh, rfl⟩⟩
        · rename_i hh
          exact ⟨rfl, hl, rfl, .inr ⟨by simpa using hh, h⟩⟩
    · cases h

/-- Everything the guard can answer with a next state. -/
theorem guardInvariant_cases {s t : State} {r : Result} (h : guardInvariant s r = .next t) :
    (r = .next t ∧ (t.sessionOk = true ∨ t.fault.isSome = true)) ∨
    (∃ u, r = .next u ∧ u.sessionOk = false ∧ u.fault = none ∧ t = s.raise .invariantViolation) := by
  unfold guardInvariant at h
  split at h
  · rename_i u
    split at h
    · rename_i hu
      cases h
      exact .inl ⟨rfl, by simpa using hu⟩
    · rename_i hu
      cases h
      simp only [Bool.or_eq_true, not_or, Bool.not_eq_true, Option.isSome_eq_false_iff,
        Option.isNone_iff_eq_none] at hu
      exact .inr ⟨u, rfl, hu.1, hu.2, rfl⟩
  · cases h
  · cases h

/-- The host's input changes the latches and its own queue only. -/
theorem hostInput_state (s : State) :
    (hostInput s).2 = { s with
      pendExit := (hostInput s).2.pendExit
      pendToggle := (hostInput s).2.pendToggle
      env := { s.env with host := s.env.host.tail } } := by
  obtain ⟨cfg, state, phase, _, _, _, _, _, _, _, _, _, _, _, _, _, _, _, env, _, _⟩ := s
  obtain ⟨_, host, _, _, _⟩ := env
  cases host <;> rfl

/-! ### The step at a phase -/

/-- A phase that issues no instruction runs the sequencer. -/
theorem runPhase_none {s : State} (h : fetch s.phase = none) : runPhase s = sequencerStep s := by
  simp [runPhase, h]

/-- A phase that issues an instruction's bytes runs that instruction. -/
theorem runPhase_instr {s : State} {bs : List Byte} {i : Instr} (h : fetch s.phase = some bs)
    (hd : decode bs = .ok i) : runPhase s = exec i s := by
  simp [runPhase, h, hd]

/-- Every row with control-word fields is one `configure_transfer` with them (R78). -/
theorem exec_control {i : Instr} {c : BitVec 2} {n o : BitVec 7}
    (h : i.controlFields = some (c, n, o)) (s : State) : exec i s = configureTransfer c n o s := by
  cases i <;> simp [Instr.controlFields] at h <;> obtain ⟨rfl, rfl, rfl⟩ := h <;> rfl

theorem controlFields_cwPing (c : BitVec 2) : (cwPing c).controlFields = some (c, 3, 1) := by
  revert c
  decide

theorem controlFields_cwData (c : BitVec 2) : (cwData c).controlFields = some (c, 4, 1) := by
  revert c
  decide

/-- The instruction a control word decodes to has that word's fields. -/
theorem controlFields_controlInstr (c : BitVec 2) (n o : BitVec 7) :
    (controlInstr c n o).controlFields = some (c, n, o) := by
  unfold controlInstr
  split
  · rename_i h
    rw [controlFields_cwPing, h.1, h.2]
  · split
    · rename_i h
      rw [controlFields_cwData, h.1, h.2]
    · rfl

end Sys2Proof.Machine
end

