-- ==== Sys2Proof/Laws/PerInstr.lean ====
section
/-!
SUPPORT. Statements about every instruction as syntax, one lemma per constructor.
-/

namespace Sys2Proof.Laws.RoundTrip

/-- Decoding the encoding of a well-formed instruction gives it back. -/
def Statement (i : Instr) : Prop := WellFormed i = true → decode (encode i) = .ok i

theorem ping : Statement .ping := by
  intro _
  rfl

theorem data : Statement .data := by
  intro _
  rfl

theorem controlWord (c : BitVec 2) (i o : BitVec 7) : Statement (.controlWord c i o) := by
  intro h
  rw [encode, decode_controlWord, controlInstr_other]
  simpa [WellFormed] using h

theorem cwPingCh0 : Statement .cwPingCh0 := by
  intro _
  rw [encode, decode_controlWord, controlInstr_ping]
  rfl

theorem cwPingCh1 : Statement .cwPingCh1 := by
  intro _
  rw [encode, decode_controlWord, controlInstr_ping]
  rfl

theorem cwPingCh2 : Statement .cwPingCh2 := by
  intro _
  rw [encode, decode_controlWord, controlInstr_ping]
  rfl

theorem cwPingCh3 : Statement .cwPingCh3 := by
  intro _
  rw [encode, decode_controlWord, controlInstr_ping]
  rfl

theorem cwDataCh0 : Statement .cwDataCh0 := by
  intro _
  rw [encode, decode_controlWord, controlInstr_data]
  rfl

theorem cwDataCh1 : Statement .cwDataCh1 := by
  intro _
  rw [encode, decode_controlWord, controlInstr_data]
  rfl

theorem cwDataCh2 : Statement .cwDataCh2 := by
  intro _
  rw [encode, decode_controlWord, controlInstr_data]
  rfl

theorem cwDataCh3 : Statement .cwDataCh3 := by
  intro _
  rw [encode, decode_controlWord, controlInstr_data]
  rfl

end Sys2Proof.Laws.RoundTrip
end

