-- ==== Sys2Proof/Laws/Step.lean ====
section
/-!
SUPPORT. The step of the machine where nothing but the block acts, the step of each transfer label, and
runs of several steps. The proofs about whole transfers and whole captures cite these.
-/

namespace Sys2Proof.Machine

/-! ### The block alone -/

/-- With no coming input of the host, none lands. -/
theorem hostInput_empty {s : State} (h : s.env.host = []) : hostInput s = (none, s) := by
  simp [hostInput, h]

theorem running_fault {s : State} (h : s.running = true) : s.fault = none := by
  simp only [State.running, Bool.and_eq_true, Option.isNone_iff_eq_none] at h
  exact h.1.1

theorem running_halted {s : State} (h : s.running = true) : s.halted = false := by
  simp only [State.running, Bool.and_eq_true, Bool.not_eq_true'] at h
  exact h.1.2

theorem running_host {s : State} (h : s.running = true) : s.env.host = [] := by
  simp only [State.running, Bool.and_eq_true, List.isEmpty_iff] at h
  exact h.2

/-- A running block's step is the step at its phase, under the guard of R32. -/
theorem step_running {s : State} (h : s.running = true) (hl : s.cfg.legal = true) :
    step s = guardInvariant s (runPhase s) := by
  simp [step, machineStep, hostInput_empty (running_host h), blockStep, hl, running_fault h,
    running_halted h]

/-- The guard passes a state in which R32 holds. -/
theorem guardInvariant_next {s t : State} (h : t.sessionOk = true) :
    guardInvariant s (.next t) = .next t := by
  simp [guardInvariant, h]

/-- The guard passes a fault that the step has raised. -/
theorem guardInvariant_raised {s t : State} (h : t.fault.isSome = true) :
    guardInvariant s (.next t) = .next t := by
  simp [guardInvariant, h]

/-- A running block takes the step at its phase where R32 holds afterwards. -/
theorem step_eq_runPhase {s t : State} (h : s.running = true) (hl : s.cfg.legal = true)
    (hr : runPhase s = .next t) (ht : t.sessionOk = true) : step s = .next t := by
  rw [step_running h hl, hr, guardInvariant_next ht]

/-! ### The transfer -/

/-- In a transfer of the invariant the step is the transfer's own at its label. -/
theorem runPhase_transfer {s : State} (h : s.Inv) {l : TransferLabel} {x : Transfer}
    (hp : s.phase = .transfer l x) : runPhase s = transferStep l x s := by
  have hok := h.phase
  simp only [State.phaseOk, hp, Bool.and_eq_true] at hok
  obtain ⟨hx, hlab⟩ := hok
  have command (hc : ∀ cw, l ≠ .t3 cw ∧ l ≠ .t4 cw) : runPhase s = transferStep l x s := by
    have hf : fetch s.phase = some [x.frame.cmd] := by rw [hp]; cases l <;> simp_all [fetch]
    unfold State.transferOk at hx
    cases hret : x.ret <;> simp only [hret, Bool.and_eq_true, beq_iff_eq] at hx
    · rw [runPhase_instr (i := .ping) hf (by rw [hx.2]; rfl)]
      simp only [exec, execPing, commandStep, hp, Transfer.forCommand, hret]
      rw [hx.2]
      rfl
    · rw [runPhase_instr (i := .data) hf (by rw [hx.2]; rfl)]
      simp only [exec, execData, commandStep, hp, Transfer.forCommand, hret, hx.1]
      rw [hx.2]
      rfl
    · have hs := hx.1.1
      simp only [State.inLoop, Bool.and_eq_true, beq_iff_eq] at hs
      rw [runPhase_instr (i := .data) hf (by rw [hx.2]; rfl)]
      simp only [exec, execData, commandStep, hp, Transfer.forCommand, hret, hs.1]
      rw [hx.2]
      rfl
  have control (cw : Word) (hl : l = .t3 cw ∨ l = .t4 cw) : runPhase s = transferStep l x s := by
    have hcw : cw = controlWord s.cfg.channel x.frame.inLen x.frame.outLen := by
      rcases hl with rfl | rfl <;> simpa [State.labelOk] using hlab
    have hf : fetch s.phase = some (bytesOfWord cw) := by
      rw [hp]
      rcases hl with rfl | rfl <;> rfl
    rw [runPhase_instr hf (by rw [hcw]; exact decode_controlWord _ _ _),
      exec_control (controlFields_controlInstr _ _ _)]
    rcases hl with rfl | rfl <;>
      simp [configureTransfer, State.sentinelDone, hp, State.transferOp, transferStep, hcw]
  cases l with
  | t3 cw => exact control cw (.inl rfl)
  | t4 cw => exact control cw (.inr rfl)
  | t1 => exact command (by simp)
  | t2 => exact command (by simp)
  | t5 => exact command (by simp)
  | t6 => exact command (by simp)
  | t7 => exact command (by simp)

/-- T1, whole (R82). -/
theorem transferStep_t1 (x : Transfer) (s : State) :
    transferStep .t1 x s = .next { s with
      link := { s.link with stat := s.link.stat &&& ~~~s.cfg.errMask s.cfg.channel }
      trace := .clr s.cfg.channel :: s.trace
      phase := .transfer .t2 x } := rfl

/-- T2, whole (R84). -/
theorem transferStep_t2 {s : State} (hl : s.cfg.legal = true) (ha : s.cfg.aligned = true)
    (x : Transfer) :
    transferStep .t2 x s = .next { s with
      link := { s.link with xbuf := s.link.xbuf.writeWord 0 (commandWord x.frame.cmd) }
      trace := .wb 0 (commandWord x.frame.cmd) :: s.trace
      phase := .transfer
        (.t3 (controlWord s.cfg.channel x.frame.inLen x.frame.outLen)) x } := by
  simp only [transferStep, writeCommandStep, bufWrite_ok hl ha]
  rfl

/-- T3, whole (R79). -/
theorem transferStep_t3 {s : State} (ha : s.cfg.aligned = true) (cw : Word) (x : Transfer) :
    transferStep (.t3 cw) x s = .next { s with
      link := { s.link with statWritten := s.cfg.sentinel }
      trace := .wStat s.cfg.sentinel :: s.trace
      phase := .transfer (.t4 cw) x } := by
  simp only [transferStep, sentinelStep, portWrite_ok ha]
  rfl

/-- T4, whole, for a word that may be written (R80). -/
theorem transferStep_t4 {s : State} (ha : s.cfg.aligned = true) {cw : Word}
    (hw : controlRefusal cw = none) (x : Transfer) :
    transferStep (.t4 cw) x s = .next { s with
      link := { s.link with ctrl := cw, busy := s.link.busy || cw.getLsbD 0 }
      trace := .wCtrl cw :: s.trace
      polls := 0
      phase := .transfer .t5 x } := by
  simp only [transferStep, controlWriteStep, hw, portWrite_ok ha]
  rfl

/-- T5 with the bound reached, whole (R89, R143). -/
theorem transferStep_t5_bound {s : State} (hb : boundReached s.cfg s.polls = true) (x : Transfer) :
    transferStep .t5 x s = .next { s with fault := some (.linkStall s.cfg.channel) } := by
  simp [transferStep, pollStep, hb, State.raise]

/-- T5 below the bound, whole (R81, R83): a poll reads busy exactly when the controller is still busy after
its part. -/
theorem transferStep_t5 {s : State} (hl : s.cfg.legal = true) (ha : s.cfg.aligned = true)
    (hb : boundReached s.cfg s.polls = false) (x : Transfer) :
    transferStep .t5 x s =
      (let t := (controllerPoll s).record (.rBusy (controllerPoll s).link.busy)
       .next (if (controllerPoll s).link.busy then countPoll (t.goto (.transfer .t5 x))
         else t.goto (.transfer .t6 x))) := by
  have hc : (controllerPoll s).cfg = s.cfg := by
    obtain ⟨_, e⟩ | ⟨_, _, e⟩ | ⟨_, n, st, r, more, rest, _, e⟩ | ⟨_, st, r, more, rest, _, e⟩ :=
      controllerPoll_cases s <;> rw [e]
  have hr : readsBusy (controllerPoll s).cfg (controllerPoll s).link =
      (controllerPoll s).link.busy := readsBusy_eq (by rw [hc]; exact hl) _
  simp only [transferStep, pollStep, hb, pollBusy_ok ha, Except.map, finish_ok, hr]
  rfl

/-- What a poll that read busy adds (R81): with a bound, the count. -/
theorem countPoll_eq (t : State) :
    countPoll t = { t with
      polls := if t.cfg.pollBound.isSome then t.polls + 1 else t.polls } := by
  unfold countPoll
  cases t.cfg.pollBound <;> rfl

/-- Below a finite bound, and always without one, the bound is not reached. -/
theorem boundReached_false {c : Config} {n : Nat} (h : ∀ b, c.pollBound = some b → n < b) :
    boundReached c n = false := by
  unfold boundReached
  cases hb : c.pollBound with
  | none => rfl
  | some b => simp [h b hb]

/-- T6, whole (R86). -/
theorem transferStep_t6 {s : State} (ha : s.cfg.aligned = true) (x : Transfer) :
    transferStep .t6 x s = .next { s with
      tStat := if x.wantStatus then s.link.stat else s.tStat
      trace := (if x.wantStatus then [.rStat s.link.stat] else []) ++ s.trace
      phase := .transfer .t7 x } := by
  unfold transferStep statusStep
  cases x.wantStatus
  · rfl
  · simp only [if_pos, statRead_ok ha]
    rfl

/-- T7, whole (R85). -/
theorem transferStep_t7 {s : State} (hl : s.cfg.legal = true) (ha : s.cfg.aligned = true)
    (x : Transfer) :
    transferStep .t7 x s = .next { s with
      tResp := s.link.xbuf.readWord 0
      trace := .rb 0 (s.link.xbuf.readWord 0) :: s.trace
      phase := returnPhase x.ret } := by
  simp only [transferStep, responseStep, bufRead_ok hl ha]
  rfl

/-- The control word in flight of a transfer of the invariant may be written: its lengths are the frame's,
and not 0. -/
theorem controlRefusal_inFlight {s : State} (h : s.Inv) {cw : Word} {x : Transfer}
    (hp : s.phase = .transfer (.t4 cw) x) : controlRefusal cw = none := by
  have hok := h.phase
  simp only [State.phaseOk, hp, State.labelOk, Bool.and_eq_true, beq_iff_eq] at hok
  obtain ⟨hx, rfl⟩ := hok
  rw [controlRefusal_controlWord]
  unfold State.transferOk at hx
  cases hret : x.ret <;> simp only [hret, Bool.and_eq_true, beq_iff_eq] at hx <;> rw [hx.2] <;> rfl

/-! ### A rejected negotiation -/

/-- A rejected negotiation, whole (R115): the free value decides the record and nothing else. -/
theorem reject_eq (cause : RejectCause) (s : State) :
    reject cause s = .next { s with
      freeDraws := s.freeDraws + 1
      phase := if Config.negRejectedLogged s.freeDraws then .emit (.negRejected cause) else .k0 } := rfl

/-! ### The record of a label -/

/-- `Log`, whole (R132, R133): the record, and the label that follows it. -/
theorem runPhase_emit {s : State} {r : LogRecord} (h : s.phase = .emit r) :
    runPhase s = .next { s with trace := .log r :: s.trace, phase := afterLog r } := by
  rw [runPhase_none (by rw [h]; rfl)]
  simp only [sequencerStep, h]
  rfl

/-! ### Runs of several steps -/

theorem stepsTo_one {s t : State} (h : step s = .next t) : stepsTo 1 s t := ⟨t, h, rfl⟩

theorem stepsTo_trans {j k : Nat} {s t u : State} (h : stepsTo j s t) (h' : stepsTo k t u) :
    stepsTo (j + k) s u := by
  induction j generalizing s with
  | zero =>
    cases h
    simpa using h'
  | succ j ih =>
    obtain ⟨v, hv, hvt⟩ := h
    rw [Nat.succ_add]
    exact ⟨v, hv, ih hvt⟩

theorem stepsTo_snoc {k : Nat} {s t u : State} (h : stepsTo k s t) (h' : step t = .next u) :
    stepsTo (k + 1) s u := stepsTo_trans h (stepsTo_one h')

end Sys2Proof.Machine
end

