-- ==== Sys2Proof/Machine/Script.lean ====
section
/-!
DEFINITION. Stimulus scripts (30_encoding.md R73): the programs of this block, as the queues of the agents
that answer it. The `config` line is the configuration of `State.resetWith`.
-/

namespace Sys2Proof.Machine

/-- One line of a script (R73). An `xfer` line gives no response bytes above XBUF word 0. -/
inductive ScriptLine where
  /-- `tick events?` -/
  | tick (exit toggle : Bool)
  /-- `xfer n stat= resp=` -/
  | xfer (busyPolls : Nat) (stat resp : Word)
  /-- `persist OK` or `persist FAIL` -/
  | persist (ok : Bool)
  deriving DecidableEq, Repr

/-- A script's lines as the other agents: an answer belongs to the tick it stands under (R73). Answers that
stand before the first tick belong to none, and the first grant counts them as unused. -/
def scriptEnv : List ScriptLine → Env
  | [] => Env.none
  | .tick e t :: rest =>
    let v := scriptEnv rest
    { v with
      ticks := { events := { exit := e, toggle := t }, xfers := v.xfers, sink := v.sink } :: v.ticks
      xfers := []
      sink := [] }
  | .xfer n st r :: rest =>
    let v := scriptEnv rest
    { v with xfers := { busyPolls := n, stat := st, resp := r, more := [] } :: v.xfers }
  | .persist ok :: rest =>
    let v := scriptEnv rest
    { v with sink := ok :: v.sink }

/-- The machine after reset with a configuration, its other agents as the script says. -/
def State.ofScript (c : Config) (script : List ScriptLine) : State :=
  { State.resetWith c with env := scriptEnv script }

/-- A finite script is at its end (R168): the block waits at K0 for a tick that is not granted, or has
halted, and no answer of the script has been left over (R73). A faulted state is never a normal end of a run
(R140). -/
def State.scriptDone (s : State) : Bool :=
  s.fault.isNone && ((s.phase == .k0 && s.env.ticks.isEmpty) || s.halted) &&
    s.env.ticks.all (fun g => g.xfers.isEmpty && g.sink.isEmpty) &&
    s.env.xfers.isEmpty && s.env.sink.isEmpty && s.env.unused == 0

end Sys2Proof.Machine
end

