-- ==== Sys2Proof/Tests/Slice0.lean ====
section
/-!
SUPPORT. The model's own tests: the smoke of WellFormed, decoding of words written out from the spec's
encodings, one step of each instruction, the spec's vectors (95_test_vectors.md), and for each obligation
with hypotheses a witness that meets them.
-/

namespace Sys2Proof.Machine.Tests

/-! ### Helpers -/

/-- What a test asks of an outcome: it is a next state of which `p` holds. -/
def nextWith (r : Result) (p : State → Bool) : Bool :=
  match r with
  | .next t => p t
  | .fault _ => false
  | .refused _ => false

/-- The invariant as one check. -/
def invCheck (s : State) : Bool :=
  s.cfg.legal && s.cfg.aligned && s.env.host.all HostInput.allowed && s.sessionOk && s.registersOk &&
    s.phaseOk && s.memoryOk

theorem inv_of_check {s : State} (h : invCheck s = true) : s.Inv := by
  simp only [invCheck, Bool.and_eq_true] at h
  obtain ⟨⟨⟨⟨⟨⟨hl, ha⟩, hh⟩, hs⟩, hr⟩, hp⟩, hm⟩ := h
  exact ⟨hl, ha, hh, hs, hr, hp, hm⟩

/-- Idle, at a label. -/
def idleAt (p : Phase) : State := { State.reset with phase := p }

/-- Negotiating with the device of the example parameters, at a label. -/
def negotiatingAt (p : Phase) : State :=
  { State.reset with state := .negotiating, deviceId := 0x0004, phase := p }

/-- Capturing, `count` of `target` samples stored, at a label. -/
def capturingAt (count target : BitVec 10) (p : Phase) : State :=
  { State.reset with
    state := .capturing, deviceId := 0x0004, targetLength := target, capturedCount := count, phase := p }

/-- At a label of the transfer of a state's handler. -/
def inTransfer (s : State) (l : TransferLabel) : State :=
  { s with phase := .transfer l (transferFor s.state) }

/-- The controller is busy, with these answers to come. -/
def busyWith (xs : List XferAnswer) (s : State) : State :=
  { s with link := { s.link with busy := true }, env := { s.env with xfers := xs } }

/-- With the sink's coming answer. -/
def answered (ok : Bool) (s : State) : State := { s with env := { s.env with sink := [ok] } }

/-- With a poll bound. -/
def bounded (b : Nat) (s : State) : State := { s with cfg := { s.cfg with pollBound := some b } }

/-- The host's next input. -/
def withHost (h : HostInput) (s : State) : State := { s with env := { s.env with host := [h] } }

/-! ### WellFormed refuses each ill-formed term -/

theorem test_ping_word_is_not_general : WellFormed (.controlWord 0 3 1) = false := by decide
theorem test_data_word_is_not_general : WellFormed (.controlWord 3 4 1) = false := by decide
theorem test_other_words_are_general :
    WellFormed (.controlWord 0 0 0) = true ∧ WellFormed (.controlWord 3 127 127) = true ∧
      WellFormed (.controlWord 1 3 2) = true ∧ WellFormed (.controlWord 1 5 1) = true := by decide

/-! ### Decoding words written out from the encodings (R57, R60, R62)

Control word, from bit 31: 00000 CH(2) CHEN(1) 0 OUTLEN(7) 0 INLEN(7) CMDEN(1) 0000 CH2(2) START(1). -/

theorem test_decode_ping : decodeTableWord 8 0b00000000 = some .ping := by decide
theorem test_decode_data : decodeTableWord 8 0b00010100 = some .data := by decide
theorem test_decode_control_word :
    -- CH = 1, OUTLEN = 127, INLEN = 3, CH2 = 1
    decodeTableWord 32 0b00000011011111110000001110000011 = some (.controlWord 1 3 127) := by decide
theorem test_decode_cw_ping_ch0 :
    decodeTableWord 32 0b00000001000000010000001110000001 = some .cwPingCh0 := by decide
theorem test_decode_cw_ping_ch1 :
    decodeTableWord 32 0b00000011000000010000001110000011 = some .cwPingCh1 := by decide
theorem test_decode_cw_ping_ch2 :
    decodeTableWord 32 0b00000101000000010000001110000101 = some .cwPingCh2 := by decide
theorem test_decode_cw_ping_ch3 :
    decodeTableWord 32 0b00000111000000010000001110000111 = some .cwPingCh3 := by decide
theorem test_decode_cw_data_ch0 :
    decodeTableWord 32 0b00000001000000010000010010000001 = some .cwDataCh0 := by decide
theorem test_decode_cw_data_ch1 :
    decodeTableWord 32 0b00000011000000010000010010000011 = some .cwDataCh1 := by decide
theorem test_decode_cw_data_ch2 :
    decodeTableWord 32 0b00000101000000010000010010000101 = some .cwDataCh2 := by decide
theorem test_decode_cw_data_ch3 :
    decodeTableWord 32 0b00000111000000010000010010000111 = some .cwDataCh3 := by decide
theorem test_reserved_commands_refused :
    decode [0x13] = .error (.unknownCommand 0x13) ∧ decode [0x01] = .error (.unknownCommand 0x01) := by
  decide
theorem test_reserved_words_refused :
    -- START, CMDEN, CHEN clear; a reserved bit set at each place; the channel fields differ
    decodeTableWord 32 0x01010380 = none ∧ decodeTableWord 32 0x01010301 = none ∧
      decodeTableWord 32 0x00010381 = none ∧ decodeTableWord 32 0x09010381 = none ∧
      decodeTableWord 32 0x01810381 = none ∧ decodeTableWord 32 0x01018381 = none ∧
      decodeTableWord 32 0x01010389 = none ∧ decodeTableWord 32 0x01010383 = none := by decide
theorem test_other_lengths_refused :
    decode [] = .error (.length 0) ∧ decode [0x00, 0x00] = .error (.length 2) := by decide

/-! ### Vectors of 95_test_vectors.md sections 2.1 and 2.3, and examples of the rules -/

theorem test_configure_transfer_masks : controlWordOf 5 0x83 0xFF = 0x037F0383 := by decide
theorem test_control_word_zero_lengths : controlWordOf 0 0 0 = 0x01000081 := by decide
theorem test_control_word_all_ones : controlWordOf 3 127 127 = 0x077F7F87 := by decide
theorem test_reverse_bytes : reverseBytes 0x12345678 = 0x78563412 := by decide
theorem test_swap_half_words : swapHalfWords 0xABCD0001 = 0x0001ABCD := by decide
theorem test_samples :
    sampleOf .w16 0x12345678 = 0x00001234 ∧ sampleOf .w32 0x12345678 = 0x12345678 := by decide
theorem test_ident : ident 0x0001FF00 = 0x0001 := by decide
theorem test_length_bounds :
    lengthOk 0 = false ∧ lengthOk 1 = true ∧ lengthOk 512 = true ∧ lengthOk 513 = false ∧
      lengthOk 0xFFFFFFFF = false := by decide
theorem test_errors_pending :
    errorsPending Config.reference 0x01000000 = true ∧
      errorsPending Config.reference 0x80000000 = false := by decide
theorem test_sample_bytes :
    sampleBytes .big .w16 0x0000ABCD = [0xAB, 0xCD] ∧
      sampleBytes .little .w32 0x12345678 = [0x78, 0x56, 0x34, 0x12] := by decide

/-! ### One step of each instruction

Through the machine's step, from reset, with the word placed to be issued; and the command's or the word's
other step. Expected values: R62, R82, R87, and the traces of 95_test_vectors.md P1. -/

/-- The step from reset, with a table word placed. -/
def stepOf (nbits w : Nat) : Result := step (State.reset.withFetchWord nbits w)

theorem test_step_ping :
    nextWith (stepOf 8 0x00) (fun t => t.trace == [.clr 0] && t.phase == .transfer .t2 pingTransfer) =
      true := by decide
theorem test_ping_writes_its_byte :
    nextWith (execPing (inTransfer State.reset .t2))
      (fun t => t.trace == [.wb 0 0x00000000] &&
        t.phase == .transfer (.t3 0x01010381) pingTransfer) = true := by decide
theorem test_step_data :
    nextWith (stepOf 8 0x14) (fun t => t.trace == [.clr 0] &&
      t.phase == .transfer .t2 (dataTransfer .negotiating)) = true := by decide
theorem test_data_writes_its_byte :
    nextWith (execData (inTransfer (negotiatingAt .n0) .t2))
      (fun t => t.link.xbuf == [(0, 0x14)] && t.phase == .transfer (.t3 0x01010481)
        (dataTransfer .negotiating)) = true := by decide
theorem test_step_control_word :
    nextWith (stepOf 32 0x037F0383) (fun t => t.trace == [.wStat 0x80000000] &&
      t.phase == .transfer (.t4 0x037F0383) pingTransfer) = true := by decide
theorem test_control_word_starts :
    nextWith (execControlWord 1 3 127 (inTransfer State.reset (.t4 0)))
      (fun t => t.link.ctrl == 0x037F0383 && t.link.busy && t.trace == [.wCtrl 0x037F0383]) = true := by
  decide
theorem test_step_cw_ping_ch0 :
    nextWith (stepOf 32 0x01010381) (fun t => t.phase == .transfer (.t4 0x01010381) pingTransfer) =
      true := by decide
theorem test_cw_ping_ch0_starts :
    nextWith (execCwPingCh0 (inTransfer State.reset (.t4 0))) (fun t => t.link.ctrl == 0x01010381) =
      true := by decide
theorem test_step_cw_ping_ch1 :
    nextWith (stepOf 32 0x03010383) (fun t => t.phase == .transfer (.t4 0x03010383) pingTransfer) =
      true := by decide
theorem test_cw_ping_ch1_starts :
    nextWith (execCwPingCh1 (inTransfer State.reset (.t4 0))) (fun t => t.link.ctrl == 0x03010383) =
      true := by decide
theorem test_step_cw_ping_ch2 :
    nextWith (stepOf 32 0x05010385) (fun t => t.phase == .transfer (.t4 0x05010385) pingTransfer) =
      true := by decide
theorem test_cw_ping_ch2_starts :
    nextWith (execCwPingCh2 (inTransfer State.reset (.t4 0))) (fun t => t.link.ctrl == 0x05010385) =
      true := by decide
theorem test_step_cw_ping_ch3 :
    nextWith (stepOf 32 0x07010387) (fun t => t.phase == .transfer (.t4 0x07010387) pingTransfer) =
      true := by decide
theorem test_cw_ping_ch3_starts :
    nextWith (execCwPingCh3 (inTransfer State.reset (.t4 0))) (fun t => t.link.ctrl == 0x07010387) =
      true := by decide
theorem test_step_cw_data_ch0 :
    nextWith (stepOf 32 0x01010481) (fun t => t.phase == .transfer (.t4 0x01010481) pingTransfer) =
      true := by decide
theorem test_cw_data_ch0_starts :
    nextWith (execCwDataCh0 (inTransfer State.reset (.t4 0))) (fun t => t.link.ctrl == 0x01010481) =
      true := by decide
theorem test_step_cw_data_ch1 :
    nextWith (stepOf 32 0x03010483) (fun t => t.phase == .transfer (.t4 0x03010483) pingTransfer) =
      true := by decide
theorem test_cw_data_ch1_starts :
    nextWith (execCwDataCh1 (inTransfer State.reset (.t4 0))) (fun t => t.link.ctrl == 0x03010483) =
      true := by decide
theorem test_step_cw_data_ch2 :
    nextWith (stepOf 32 0x05010485) (fun t => t.phase == .transfer (.t4 0x05010485) pingTransfer) =
      true := by decide
theorem test_cw_data_ch2_starts :
    nextWith (execCwDataCh2 (inTransfer State.reset (.t4 0))) (fun t => t.link.ctrl == 0x05010485) =
      true := by decide
theorem test_step_cw_data_ch3 :
    nextWith (stepOf 32 0x07010487) (fun t => t.phase == .transfer (.t4 0x07010487) pingTransfer) =
      true := by decide
theorem test_cw_data_ch3_starts :
    nextWith (execCwDataCh3 (inTransfer State.reset (.t4 0))) (fun t => t.link.ctrl == 0x07010487) =
      true := by decide

/-! ### Single steps of the sequencer -/

/-- R118's example: W16, 0xABCD0001 at index 3. -/
theorem test_w16_store :
    nextWith (runPhase { capturingAt 3 5 .c3 with capWidth := .w16, tResp := 0xABCD0001 })
      (fun t => t.entry 3 == 0x0000ABCD && t.trace == [.cb 3 0x0000ABCD]) = true := by decide
/-- R109's example. -/
theorem test_identified :
    nextWith (step (idleAt (.i2 0x0004)))
      (fun t => t.state == .negotiating && t.deviceId == 0x0004) = true := by decide
/-- R11, R121: a restart can land between the answer of Persist and the record of it. -/
theorem test_record_is_a_step :
    nextWith (step (answered true (capturingAt 2 2 .c6)))
      (fun t => t.phase == .emit (.captureComplete 2) && t.trace == [.persist 2 .w32 true]) = true ∧
    nextWith (step (capturingAt 2 2 (.emit (.captureComplete 2))))
      (fun t => t.phase == .c7 && t.trace == [.log (.captureComplete 2)]) = true := by decide
/-- R140: a faulted state is no end of a script. -/
theorem test_fault_is_no_script_end :
    State.reset.scriptDone = true ∧
      { State.reset with fault := some .invariantViolation }.scriptDone = false := by decide
/-- R141: the store past the capacity. -/
theorem test_capacity_exceeded :
    nextWith (step (capturingAt 600 512 .c3))
      (fun t => t.fault == some (.capacityExceeded 600) && t.cbuf == []) = true := by decide
/-- R48, R141: Persist past the capacity. -/
theorem test_persist_capacity_exceeded :
    nextWith (step (capturingAt 600 600 .c6)) (fun t => t.fault == some (.capacityExceeded 512)) =
      true := by decide
/-- R70, U19: a zero length is refused at the CTRL write, which R78's sentinel write comes before. -/
theorem test_zero_length_refused :
    exec (.controlWord 0 0 0) (inTransfer State.reset (.t4 0x01000081)) =
      .refused (.zeroLength 0x01000081) := rfl
/-- R143: the poll that reaches the bound, and the raise after it, which writes the fault only. -/
theorem test_link_stall_is_precise :
    nextWith (step (bounded 1 (busyWith [⟨5, 0, 0, []⟩] (inTransfer State.reset .t5))))
        (fun t => t.fault == none && t.polls == 1) = true ∧
      nextWith (step { bounded 1 (busyWith [] (inTransfer State.reset .t5)) with polls := 1 })
        (fun t => t == { bounded 1 (busyWith [] (inTransfer State.reset .t5)) with
          polls := 1, fault := some (.linkStall 0) }) = true := by decide
/-- R73: an answer belongs to the tick it stands under. -/
theorem test_script_env :
    scriptEnv [.tick false true, .xfer 2 0x80000000 0x00040000, .tick false false, .persist false] =
      { Env.none with
        ticks := [
          { events := ⟨false, true⟩, xfers := [⟨2, 0x80000000, 0x00040000, []⟩], sink := [] },
          { events := ⟨false, false⟩, xfers := [], sink := [false] }] } := by decide
/-- R73: an answer left over at a grant is an error of the script. -/
theorem test_unused_answer :
    nextWith (step { State.ofScript Config.reference [.tick false false] with
        env := { Env.none with ticks := [⟨⟨false, false⟩, [], []⟩], xfers := [⟨0, 0, 0, []⟩] } })
      (fun t => t.env.xfers == [] && t.env.unused == 1) = true := by decide
/-- R58, R43, R41: of an answer longer than INLEN = 9 bytes, or than a buffer of 2 words, no byte lands past
the words that hold response bytes. -/
theorem test_response_above_word_0 :
    ({ Link.atPowerUp with ctrl := 0x01010981 }.answered Config.reference
        ⟨0, 0, 0x01020304, [5, 6, 7, 8, 9, 10, 11, 12, 13]⟩).xbuf.map Prod.snd =
        [1, 2, 3, 4, 5, 6, 7, 8, 9, 10, 11, 12] ∧
      ({ Link.atPowerUp with ctrl := 0x01010981 }.answered { Config.reference with cmdBufWords := 2 }
        ⟨0, 0, 0x01020304, [5, 6, 7, 8, 9]⟩).xbuf.map Prod.snd = [1, 2, 3, 4, 5, 6, 7, 8] := by decide
theorem test_core_reset : Sys2Proof.core.reset = State.reset := rfl

/-! ### Witnesses: for each obligation with hypotheses, concrete values that meet them together -/

theorem witness_DecodeEncodeGivesTheInstructionBack :
    WellFormed .ping = true ∧ WellFormed (.controlWord 3 127 127) = true ∧
      WellFormed (.controlWord 0 0 0) = true ∧ WellFormed .cwDataCh3 = true := by decide

theorem witness_DecodedBytesAreTheEncoding :
    decode [0x14] = .ok .data ∧ decode [0x03, 0x01, 0x03, 0x83] = .ok .cwPingCh1 ∧
      decode [0x07, 0x7F, 0x7F, 0x87] = .ok (.controlWord 3 127 127) := by decide

theorem witness_ControlWordDecodesToItsMaskedInputs :
    -- both sides of the converse: a control word, and a word that is none
    (∃ i, decode (bytesOfWord 0x077F7F87) = .ok i) ∧ isControlWord 0x077F7F86 = false :=
  ⟨⟨.controlWord 3 127 127, by decide⟩, by decide⟩

theorem witness_OnlyTheTabledControlWordsAreIssued :
    (inTransfer State.reset (.t3 0x01010381)).Inv ∧
      (inTransfer (negotiatingAt .n0) (.t4 0x01010481)).Inv ∧
      (inTransfer (capturingAt 511 512 .c2) (.t4 0x01010481)).Inv :=
  ⟨inv_of_check (by decide), inv_of_check (by decide), inv_of_check (by decide)⟩

theorem witness_CorrectorsMoveBytesAndHalves :
    (0xABCDABCD : Word).extractLsb' 0 16 = (0xABCDABCD : Word).extractLsb' 16 16 := by decide

theorem witness_ResponseFieldsAreExtracted :
    -- the two ends of the accepted range, and just outside it
    lengthOk 1 = true ∧ lengthOk 512 = true ∧ lengthOk 0 = false ∧ lengthOk 513 = false := by decide

theorem witness_CommandEntersItsTransfer :
    (commandOperands .ping (idleAt .i0).state = some pingTransfer ∧
      ∀ l x, (idleAt .i0).phase ≠ .transfer l x) ∧
    (commandOperands .data (negotiatingAt .n0).state = some (dataTransfer .negotiating) ∧
      ∀ l x, (negotiatingAt .n0).phase ≠ .transfer l x) ∧
    (commandOperands .data (capturingAt 0 1 .c2).state = some (dataTransfer .capturing) ∧
      ∀ l x, (capturingAt 0 1 .c2).phase ≠ .transfer l x) :=
  ⟨⟨rfl, fun _ _ h => nomatch h⟩, ⟨rfl, fun _ _ h => nomatch h⟩, ⟨rfl, fun _ _ h => nomatch h⟩⟩

theorem witness_CommandClearsItsChannelsErrors :
    ∃ (s : State) (x : Transfer), commandOperands .ping s.state = some pingTransfer ∧
      commandOperands .data s.state = some (dataTransfer .idle) ∧ s.phase = .transfer .t1 x ∧
      s.cfg.legal = true ∧ (3 : BitVec 2) ≠ s.cfg.channel ∧ s.link.stat ≠ 0 :=
  ⟨{ inTransfer State.reset .t1 with link := { Link.atPowerUp with stat := 0x0F0F0F0F } }, pingTransfer,
    rfl, rfl, rfl, by decide, by decide, by decide⟩

theorem witness_CommandWritesItsByteToTheBuffer :
    ∃ (s : State) (x : Transfer), commandOperands .data s.state = some (dataTransfer .capturing) ∧
      commandOperands .ping s.state = some pingTransfer ∧
      s.phase = .transfer .t2 x ∧ s.cfg.legal = true ∧ s.cfg.aligned = true ∧
      s.link.xbuf.wf = true ∧ s.link.xbuf.read 3 ≠ 0 :=
  ⟨{ inTransfer (capturingAt 0 1 .c2) .t2 with link := { Link.atPowerUp with xbuf := [(3, 7)] } },
    dataTransfer .capturing, rfl, rfl, rfl, by decide, by decide, by decide, by decide⟩

theorem witness_CommandIssuesTheControlWordInFlight :
    ∃ (s u v w : State) (x : Transfer), commandOperands .ping s.state = some pingTransfer ∧
      s.cfg.aligned = true ∧ s.phase = .transfer (.t3 0x01010381) x ∧
      commandOperands .ping u.state = some pingTransfer ∧ u.cfg.aligned = true ∧
      u.phase = .transfer (.t4 0x01010381) x ∧
      isControlWord 0x01010381 = true ∧ cwInLen 0x01010381 ≠ 0 ∧ cwOutLen 0x01010381 ≠ 0 ∧
      v.phase = .transfer (.t4 0x01010081) x ∧ isControlWord 0x01010081 = true ∧
      cwInLen 0x01010081 = 0 ∧
      w.phase = .transfer (.t4 0x01010380) x ∧ isControlWord 0x01010380 = false :=
  ⟨inTransfer State.reset (.t3 0x01010381), inTransfer State.reset (.t4 0x01010381),
    inTransfer State.reset (.t4 0x01010081), inTransfer State.reset (.t4 0x01010380), pingTransfer,
    rfl, by decide, rfl, rfl, by decide, rfl, by decide, by decide, by decide, rfl, by decide, by decide,
    rfl, by decide⟩

theorem witness_PollThatReadsIdleEndsTheWait :
    -- with the last poll below the bound 2, and with no bound
    ∃ (s u : State) (x : Transfer), commandOperands .data s.state = some (dataTransfer .negotiating) ∧
      s.phase = .transfer .t5 x ∧ s.cfg.legal = true ∧ s.cfg.aligned = true ∧
      (∀ b, s.cfg.pollBound = some b → s.polls < b) ∧ s.polls = 1 ∧ s.link.busy = false ∧
      commandOperands .data u.state = some (dataTransfer .negotiating) ∧
      u.phase = .transfer .t5 x ∧ u.cfg.legal = true ∧ u.cfg.aligned = true ∧
      (∀ b, u.cfg.pollBound = some b → u.polls < b) ∧ u.link.busy = true ∧
      u.env.xfers = [⟨0, 0x80000000, 0x05000000, [1, 2]⟩] ∧ u.link.xbuf.wf = true ∧
      -- an address inside the words that hold response bytes, and one past the last of them
      4 < 4 * min (((cwInLen u.link.ctrl).toNat + 3) / 4) u.cfg.cmdBufWords ∧
      ¬ 128 < 4 * min (((cwInLen u.link.ctrl).toNat + 3) / 4) u.cfg.cmdBufWords :=
  ⟨bounded 2 { inTransfer (negotiatingAt .n0) .t5 with polls := 1 },
    busyWith [⟨0, 0x80000000, 0x05000000, [1, 2]⟩]
      { inTransfer (negotiatingAt .n0) .t5 with link := { Link.atPowerUp with ctrl := 0x01017F81 } },
    dataTransfer .negotiating, rfl, rfl, by decide, by decide, fun b h => by cases h; decide, rfl, rfl,
    rfl, rfl, by decide, by decide, fun b h => (nomatch h), rfl, rfl, rfl, by decide, by decide⟩

theorem witness_PollThatReadsBusyStays :
    ∃ (s u : State) (x : Transfer), commandOperands .ping s.state = some pingTransfer ∧
      s.phase = .transfer .t5 x ∧ s.cfg.legal = true ∧ s.cfg.aligned = true ∧
      (∀ b, s.cfg.pollBound = some b → s.polls < b) ∧ s.link.busy = true ∧ s.env.xfers = [] ∧
      commandOperands .ping u.state = some pingTransfer ∧
      u.phase = .transfer .t5 x ∧ u.cfg.legal = true ∧ u.cfg.aligned = true ∧
      (∀ b, u.cfg.pollBound = some b → u.polls < b) ∧ u.cfg.pollBound = some 1 ∧ u.link.busy = true ∧
      u.env.xfers = [⟨0 + 1, 0, 0x00040000, []⟩] :=
  ⟨busyWith [] (inTransfer State.reset .t5),
    bounded 1 (busyWith [⟨1, 0, 0x00040000, []⟩] (inTransfer State.reset .t5)), pingTransfer,
    rfl, rfl, by decide, by decide, fun b h => (nomatch h), rfl, rfl, rfl, rfl, by decide, by decide,
    fun b h => by cases h; decide, rfl, rfl, rfl⟩

theorem witness_PollBoundRaisesLinkStall :
    -- the bound 3 reached; the bound 3 ahead with no answer, and with 5 busy polls still to come
    ∃ (s u v : State) (x : Transfer), commandOperands .ping s.state = some pingTransfer ∧
      s.phase = .transfer .t5 x ∧ s.cfg.pollBound = some 3 ∧ 3 ≤ s.polls ∧ s.Inv ∧
      u.Inv ∧ u.running = true ∧ u.phase = .transfer .t5 x ∧ u.cfg.pollBound = some (u.polls + 3) ∧
      u.link.busy = true ∧ u.env.xfers = [] ∧
      v.Inv ∧ v.running = true ∧ v.phase = .transfer .t5 x ∧ v.cfg.pollBound = some (v.polls + 3) ∧
      v.link.busy = true ∧ v.env.xfers = [⟨2 + 3, 0, 0x00040000, []⟩] :=
  ⟨bounded 3 { busyWith [] (inTransfer State.reset .t5) with polls := 3 },
    bounded 3 (busyWith [] (inTransfer State.reset .t5)),
    bounded 3 (busyWith [⟨5, 0, 0x00040000, []⟩] (inTransfer State.reset .t5)), pingTransfer,
    rfl, rfl, rfl, by decide, inv_of_check (by decide), inv_of_check (by decide), by decide, rfl, rfl, rfl,
    rfl, inv_of_check (by decide), by decide, rfl, rfl, rfl, rfl⟩

theorem witness_StatusIsReadOnlyWhereWanted :
    ∃ (s u v : State) (x y z : Transfer),
      commandOperands .data s.state = some (dataTransfer .negotiating) ∧
      s.phase = .transfer .t6 x ∧ s.cfg.aligned = true ∧
      (dataTransfer .negotiating).wantStatus = true ∧
      commandOperands .data u.state = some (dataTransfer .capturing) ∧
      u.phase = .transfer .t6 y ∧ u.cfg.aligned = true ∧
      (dataTransfer .capturing).wantStatus = false ∧
      commandOperands .ping v.state = some pingTransfer ∧
      v.phase = .transfer .t6 z ∧ v.cfg.aligned = true ∧ pingTransfer.wantStatus = false :=
  ⟨inTransfer (negotiatingAt .n0) .t6, inTransfer (capturingAt 0 1 .c2) .t6, inTransfer State.reset .t6,
    _, _, _, rfl, rfl, by decide, rfl, rfl, rfl, by decide, rfl, rfl, rfl, by decide, rfl⟩

theorem witness_ResponseIsReadAndTheTransferReturns :
    ∃ (s u v : State), commandOperands .ping s.state = some pingTransfer ∧
      s.phase = .transfer .t7 pingTransfer ∧ s.cfg.legal = true ∧ s.cfg.aligned = true ∧
      commandOperands .data u.state = some (dataTransfer .negotiating) ∧
      u.phase = .transfer .t7 (dataTransfer .negotiating) ∧ u.cfg.legal = true ∧ u.cfg.aligned = true ∧
      commandOperands .data v.state = some (dataTransfer .capturing) ∧
      v.phase = .transfer .t7 (dataTransfer .capturing) ∧ v.cfg.legal = true ∧ v.cfg.aligned = true :=
  ⟨inTransfer State.reset .t7, inTransfer (negotiatingAt .n0) .t7, inTransfer (capturingAt 0 1 .c2) .t7,
    rfl, rfl, by decide, by decide, rfl, rfl, by decide, by decide, rfl, rfl, by decide, by decide⟩

theorem witness_TransferRunsItsSevenSteps :
    -- one busy poll under the bound 2
    ∃ s : State, s.Inv ∧ s.running = true ∧ s.phase = .transfer .t1 pingTransfer ∧
      s.env.xfers = [⟨1, 0x80000000, 0x00040000, []⟩] ∧ ∀ b, s.cfg.pollBound = some b → 1 < b :=
  ⟨bounded 2 { inTransfer State.reset .t1 with
      env := { Env.none with xfers := [⟨1, 0x80000000, 0x00040000, []⟩] } },
    inv_of_check (by decide), by decide, rfl, rfl, fun b h => by cases h; decide⟩

theorem witness_StalledLinkPollsForever :
    ∃ s : State, s.Inv ∧ s.running = true ∧ s.phase = .transfer .t5 pingTransfer ∧
      s.cfg.pollBound = none ∧ s.link.busy = true ∧ s.env.xfers = [] :=
  ⟨busyWith [] (inTransfer State.reset .t5), inv_of_check (by decide), by decide, rfl, rfl, rfl, rfl⟩

theorem witness_ConfigureWritesTheSentinelFirst :
    -- at T3 of a transfer, and at K0 outside one
    Instr.controlFields .cwPingCh0 = some (0, 3, 1) ∧ Config.reference.aligned = true ∧
      (∀ cw x, (inTransfer State.reset (.t3 0x01010381)).phase ≠ .transfer (.t4 cw) x) ∧
      ∀ cw x, State.reset.phase ≠ .transfer (.t4 cw) x :=
  ⟨rfl, by decide, fun _ _ h => (nomatch h), fun _ _ h => nomatch h⟩

theorem witness_ConfigureWritesTheControlWordAndStarts :
    Instr.controlFields (.controlWord 2 127 1) = some (2, 127, 1) ∧ (127 : BitVec 7) ≠ 0 ∧
      (1 : BitVec 7) ≠ 0 ∧ (inTransfer State.reset (.t4 0x01010381)).cfg.aligned = true ∧
      (inTransfer State.reset (.t4 0x01010381)).phase = .transfer (.t4 0x01010381) pingTransfer ∧
      Instr.controlFields (.controlWord 0 3 0) = some (0, 3, 0) :=
  ⟨rfl, by decide, by decide, by decide, rfl, rfl⟩

theorem witness_ConfigureTransferTakesTwoSteps :
    Instr.controlFields .cwDataCh3 = some (3, 4, 1) ∧ (4 : BitVec 7) ≠ 0 ∧ (1 : BitVec 7) ≠ 0 ∧
      State.reset.cfg.aligned = true ∧ ∀ cw x, State.reset.phase ≠ .transfer (.t4 cw) x :=
  ⟨rfl, by decide, by decide, by decide, fun _ _ h => nomatch h⟩

/-- The example configuration with port addresses that are not aligned. -/
def misplaced : Config := { Config.reference with addrCtrl := 1, addrStat := 6, addrBuf := 131 }

theorem witness_ForbiddenAccessRaisesCapacityExceeded :
    Instr.controlFields .cwPingCh0 = some (0, 3, 1) ∧ (3 : BitVec 7) ≠ 0 ∧ (1 : BitVec 7) ≠ 0 ∧
    (∀ cw x, (State.resetWith misplaced).phase ≠ .transfer (.t4 cw) x) ∧
    misplaced.addrStat.toNat % 4 ≠ 0 ∧ misplaced.addrCtrl.toNat % 4 ≠ 0 ∧
    (inTransfer (State.resetWith misplaced) (.t4 0)).phase = .transfer (.t4 0) pingTransfer ∧
    commandOperands .ping (inTransfer (State.resetWith misplaced) .t7).state = some pingTransfer ∧
    (inTransfer (State.resetWith misplaced) .t2).phase = .transfer .t2 pingTransfer ∧
    (inTransfer (State.resetWith misplaced) .t7).phase = .transfer .t7 pingTransfer ∧
    1 ≤ misplaced.cmdBufWords ∧ misplaced.addrBuf.toNat % 4 ≠ 0 ∧
    ({ misplaced with cmdBufWords := 0 } : Config).cmdBufWords = 0 :=
  ⟨rfl, by decide, by decide, fun _ _ h => (nomatch h), by decide, by decide, rfl, rfl, rfl, rfl,
    by decide, by decide, rfl⟩

theorem witness_ForbiddenAccessOfCommands :
    -- PING and DATA at T3 and T4, the poll of either register, and the status read
    (inTransfer (State.resetWith misplaced) (.t3 0x01010381)).phase =
      .transfer (.t3 0x01010381) pingTransfer ∧
    (inTransfer (State.resetWith misplaced) (.t4 0x01010381)).phase =
      .transfer (.t4 0x01010381) pingTransfer ∧
    isControlWord 0x01010381 = true ∧ cwInLen 0x01010381 ≠ 0 ∧ cwOutLen 0x01010381 ≠ 0 ∧
    (inTransfer (State.resetWith misplaced) .t5).phase = .transfer .t5 pingTransfer ∧
    (∀ b, misplaced.pollBound = some b → 0 < b) ∧ misplaced.busyReg = .ctrl ∧
    ({ misplaced with busyReg := .stat } : Config).busyReg = .stat ∧
    commandOperands .data ProtoState.negotiating = some (dataTransfer .negotiating) ∧
    (dataTransfer .negotiating).wantStatus = true ∧
    (inTransfer { State.resetWith misplaced with state := .negotiating } .t6).phase =
      .transfer .t6 (dataTransfer .negotiating) :=
  ⟨rfl, rfl, by decide, by decide, by decide, rfl, fun _ h => (nomatch h), rfl, rfl, rfl, rfl, rfl⟩

theorem witness_InstructionsLeaveTheSessionAlone :
    (∃ t, exec .ping (idleAt .i0) = .next t) ∧ (∃ t, exec .data (negotiatingAt .n0) = .next t) ∧
      ∃ t, exec .cwPingCh0 State.reset = .next t :=
  ⟨⟨_, rfl⟩, ⟨_, rfl⟩, ⟨_, rfl⟩⟩

theorem witness_ControlWordsOnlyWriteThePorts :
    Instr.controlFields .cwPingCh0 = some (0, 3, 1) ∧
      (∃ t, exec .cwPingCh0 State.reset = .next t) ∧
      ∃ t, exec .cwPingCh0 (inTransfer State.reset (.t4 0x01010381)) = .next t :=
  ⟨rfl, ⟨_, rfl⟩, ⟨_, rfl⟩⟩

/-- At K0 with one tick to come, without answers. -/
def ticking (ev : Events) (s : State) : State :=
  { s with phase := .k0, env := { s.env with ticks := [⟨ev, [], []⟩] } }

theorem witness_TickIsAwaitedAndEventsLatch :
    State.reset.phase = .k0 ∧ State.reset.env.ticks = [] ∧
      (ticking ⟨true, true⟩ State.reset).phase = .k0 ∧
      (ticking ⟨true, true⟩ State.reset).env.ticks = [⟨⟨true, true⟩, [], []⟩] := ⟨rfl, rfl, rfl, rfl⟩

theorem witness_PollConsumesLatchesOutsideCaptures :
    (idleAt .k1).phase = .k1 ∧ (idleAt .k1).state = .idle ∧ (negotiatingAt .k1).phase = .k1 ∧
      (negotiatingAt .k1).state = .negotiating ∧ (capturingAt 0 1 .k1).phase = .k1 ∧
      (capturingAt 0 1 .k1).state = .capturing ∧
      ({ idleAt .k1 with state := .illegal3 } : State).state = .illegal3 :=
  ⟨rfl, rfl, rfl, rfl, rfl, rfl, rfl⟩

theorem witness_ExitWinsOverToggle :
    (idleAt (.k2 ⟨true, true⟩)).phase = .k2 ⟨true, true⟩ ∧
      (idleAt (.k2 ⟨false, true⟩)).phase = .k2 ⟨false, true⟩ ∧
      (idleAt (.k2 ⟨false, false⟩)).phase = .k2 ⟨false, false⟩ ∧
      (idleAt (.emit (.modeSwitch .w16))).phase = .emit (.modeSwitch .w16) := ⟨rfl, rfl, rfl, rfl⟩

theorem witness_EachStateHasItsHandler :
    (idleAt .k3).phase = .k3 ∧ (idleAt .k3).state = .idle ∧
      (negotiatingAt .k3).state = .negotiating ∧ (capturingAt 0 512 .k3).state = .capturing ∧
      ({ idleAt .k3 with state := .illegal3 } : State).phase = .k3 := ⟨rfl, rfl, rfl, rfl, rfl⟩

theorem witness_IdentificationMovesOrReports :
    (idleAt (.i2 0x0004)).phase = .i2 0x0004 ∧
      (0x0004 : Half) = (idleAt (.i2 0x0004)).cfg.handheldId ∧
      (idleAt (.i2 0x0001)).phase = .i2 0x0001 ∧
      (0x0001 : Half) ≠ (idleAt (.i2 0x0001)).cfg.handheldId ∧ (0x0001 : Half) ≠ 0 ∧
      (negotiatingAt (.emit (.deviceDetected 4))).phase = .emit (.deviceDetected 4) ∧
      (idleAt (.emit (.unrecognizedDevice 1))).phase = .emit (.unrecognizedDevice 1) :=
  ⟨rfl, rfl, rfl, by decide, by decide, rfl, rfl⟩

theorem witness_ZeroIdentificationIsSilent :
    (idleAt .i1).phase = .i1 ∧ (idleAt (.i2 0)).phase = .i2 0 ∧ (idleAt (.i2 0)).cfg.legal = true :=
  ⟨rfl, rfl, by decide⟩

theorem witness_OwnErrorBitsRejectFirst :
    ∃ s u v : State, s.phase = .n1 ∧ s.tStat &&& s.cfg.errMask s.cfg.channel ≠ 0 ∧
      -- only another channel's error bits are set
      u.phase = .n1 ∧ u.tStat = 0x000F0000 ∧ u.tStat &&& u.cfg.errMask u.cfg.channel = 0 ∧
      (0x000F0000 : Word) &&& u.cfg.errMask u.cfg.channel = 0 &&& u.cfg.errMask u.cfg.channel ∧
      v.phase = .emit (.negRejected .errorBits) :=
  ⟨{ negotiatingAt .n1 with tStat := 0x01000000 }, { negotiatingAt .n1 with tStat := 0x000F0000 },
    negotiatingAt (.emit (.negRejected .errorBits)), rfl, by decide, rfl, rfl, by decide, by decide, rfl⟩

theorem witness_BadLengthIsRejectedWithItsCause :
    (negotiatingAt .n2).phase = .n2 ∧ (negotiatingAt (.n3 0)).phase = .n3 0 ∧
      (0 : Word).toNat = 0 ∧ (negotiatingAt (.n3 513)).phase = .n3 513 ∧ 512 < (513 : Word).toNat ∧
      (negotiatingAt (.n3 512)).phase = .n3 512 ∧ 0 < (512 : Word).toNat ∧ (512 : Word).toNat ≤ 512 ∧
      (negotiatingAt (.n3 1)).phase = .n3 1 ∧ 0 < (1 : Word).toNat :=
  ⟨rfl, rfl, by decide, rfl, by decide, rfl, by decide, by decide, rfl, by decide⟩

theorem witness_AcceptedLengthStartsACapture :
    -- L = 512, the upper end
    ∃ s : State, s.Inv ∧ s.running = true ∧ s.phase = .n1 ∧
      s.tStat &&& s.cfg.errMask s.cfg.channel = 0 ∧ reverseBytes s.tResp = 512 ∧
      lengthOk (reverseBytes s.tResp) = true :=
  ⟨{ negotiatingAt .n1 with tResp := 0x00020000 }, inv_of_check (by decide), by decide, rfl, by decide,
    by decide, by decide⟩

theorem witness_CaptureLoopCountsToItsTarget :
    (capturingAt 0 1 .c0).phase = .c0 ∧ (capturingAt 511 512 .c1).phase = .c1 ∧
      (capturingAt 512 512 .c1).phase = .c1 ∧ (capturingAt 511 512 .c4).phase = .c4 ∧
      (capturingAt 511 512 .c4).Inv := ⟨rfl, rfl, rfl, rfl, inv_of_check (by decide)⟩

theorem witness_SampleIsStoredAtTheCount :
    ∃ s u : State, s.phase = .c3 ∧ s.capturedCount.toNat < 512 ∧ s.capturedCount = 511 ∧
      s.cbuf.wf = true ∧ s.cbuf.read 2047 ≠ 0 ∧
      u.phase = .c3 ∧ 512 ≤ u.capturedCount.toNat ∧ u.capturedCount = 512 :=
  ⟨{ capturingAt 511 512 .c3 with cbuf := [(2043, 9), (2047, 5)] }, capturingAt 512 512 .c3,
    rfl, by decide, rfl, by decide, by decide, rfl, by decide, rfl⟩

/-- At C5 with a timer reading to come. -/
def timed (ms : Nat) (s : State) : State := { s with env := { s.env with timer := [ms] } }

theorem witness_DelayLastsAtLeastOneMillisecond :
    (capturingAt 1 1 .c5).phase = .c5 ∧ (capturingAt 1 1 .c5).env.timer = [] ∧
      (timed 1 (capturingAt 1 1 .c5)).env.timer = [1] ∧
      (timed 0 (capturingAt 1 1 .c5)).phase = .c5 ∧
      (timed 0 (capturingAt 1 1 .c5)).env.timer = [0] := ⟨rfl, rfl, rfl, rfl, rfl⟩

theorem witness_PersistThenSessionReset :
    (capturingAt 512 512 .c6).phase = .c6 ∧ (capturingAt 512 512 .c6).targetLength.toNat ≤ 512 ∧
      (capturingAt 512 512 .c6).env.sink = [] ∧
      (answered true (capturingAt 512 512 .c6)).env.sink = [true] ∧
      (capturingAt 512 512 (.emit (.captureComplete 512))).phase = .emit (.captureComplete 512) ∧
      (capturingAt 512 512 .c7).phase = .c7 ∧ (capturingAt 0 512 .c7State).phase = .c7State :=
  ⟨rfl, by decide, rfl, rfl, rfl, rfl, rfl⟩

theorem witness_FailedPersistStillResetsTheSession :
    ∃ s : State, s.Inv ∧ s.running = true ∧ s.phase = .c6 ∧ s.env.sink = [false] :=
  ⟨answered false (capturingAt 2 2 .c6), inv_of_check (by decide), by decide, rfl, rfl⟩

theorem witness_FirstPersistTruncatesLaterAppend :
    ({ first := true, obj := [1] } : Sink).first = true ∧
      ({ first := false, obj := [1] } : Sink).first = false := ⟨rfl, rfl⟩

theorem witness_PersistedBytesAreTheSamplesInOrder :
    -- two memories that agree below entry 1 and differ at it
    (∀ i, i < 1 → Memory.readWord [(0, 1)] i = Memory.readWord [(0, 1), (4, 2)] i) ∧
      Memory.readWord [(0, 1)] 1 ≠ Memory.readWord [(0, 1), (4, 2)] 1 ∧
      Config.reference.sinkFirstOnFail = false ∧
      ({ Config.reference with sinkFirstOnFail := true } : Config).sinkFirstOnFail = true := by decide

theorem witness_CaptureSessionStoresAndPersistsItsSamples :
    -- one busy poll under the bound 2, a reading below 1 ms before the one that ends the delay
    ∃ s : State, s.Inv ∧ s.running = true ∧ s.phase = .c0 ∧
      (∀ b, s.cfg.pollBound = some b →
        ∀ a ∈ [(⟨1, 0, 0xABCD0001, []⟩ : XferAnswer)], a.busyPolls < b) ∧
      s.cfg.pollBound = some 2 ∧ s.env.timer = [0, 7] ∧
      [(⟨1, 0, 0xABCD0001, []⟩ : XferAnswer)].length = s.targetLength.toNat ∧
      s.env.xfers = [⟨1, 0, 0xABCD0001, []⟩] ++ [⟨0, 0, 5, []⟩] ∧ s.env.sink = [true, false] :=
  ⟨bounded 2 { capturingAt 0 1 .c0 with
      widthMode := .w16
      env := { Env.none with
        xfers := [⟨1, 0, 0xABCD0001, []⟩, ⟨0, 0, 5, []⟩], sink := [true, false], timer := [0, 7] } },
    inv_of_check (by decide), by decide, rfl,
    fun b h a ha => by cases h; simp at ha; subst ha; decide, rfl, rfl, by decide, rfl, rfl⟩

/-- The host's inputs land and it does not restart the block. -/
def eventful (s : State) : State := withHost { exit := true, toggle := true, restart := none } s

theorem witness_StepRunsTheIssuedInstruction :
    ∃ (s : State) (bs : List Byte), s.noRestart = true ∧ s.cfg.legal = true ∧ s.fault = none ∧
      s.halted = false ∧ fetch s.phase = some bs ∧ decode bs = .ok .ping :=
  ⟨eventful (inTransfer State.reset .t5), [0x00], by decide, by decide, rfl, rfl, rfl, by decide⟩

theorem witness_GuardNeverStopsAnInstruction :
    ∃ (s : State) (bs : List Byte), s.noRestart = true ∧ s.cfg.legal = true ∧ s.fault = none ∧
      s.halted = false ∧ fetch s.phase = some bs ∧ decode bs = .ok .cwDataCh0 ∧ s.sessionOk = true :=
  ⟨eventful (inTransfer (capturingAt 512 512 .c2) (.t4 0x01010481)), bytesOfWord 0x01010481,
    by decide, by decide, rfl, rfl, rfl, by decide, by decide⟩

theorem witness_UnknownCommandsAreRefused :
    ∃ (s u v : State) (x : Transfer), s.noRestart = true ∧ s.cfg.legal = true ∧ s.fault = none ∧
      s.halted = false ∧ s.phase = .transfer .t1 x ∧ x.frame.cmd ≠ 0x00 ∧ x.frame.cmd ≠ 0x14 ∧
      u.noRestart = true ∧ u.cfg.legal = true ∧ u.fault = none ∧ u.halted = false ∧
      u.phase = .transfer (.t3 0x01010380) x ∧ isControlWord 0x01010380 = false ∧
      v.noRestart = true ∧ v.cfg.legal = true ∧ v.fault = none ∧ v.halted = false ∧
      v.phase = .transfer (.t4 0x01000081) x ∧ isControlWord 0x01000081 = true ∧
      cwInLen 0x01000081 = 0 :=
  ⟨idleAt (.transfer .t1 ⟨⟨0x13, 3, 1⟩, false, .i1⟩),
    idleAt (.transfer (.t3 0x01010380) ⟨⟨0x13, 3, 1⟩, false, .i1⟩),
    idleAt (.transfer (.t4 0x01000081) ⟨⟨0x13, 3, 1⟩, false, .i1⟩), ⟨⟨0x13, 3, 1⟩, false, .i1⟩,
    by decide, by decide, rfl, rfl, rfl, by decide, by decide, by decide, by decide, rfl, rfl, rfl,
    by decide, by decide, by decide, rfl, rfl, rfl, by decide, by decide⟩

theorem witness_StoppedBlockMakesNoStep :
    ∃ s u v w x : State, s.noRestart = true ∧ s.cfg.legal = false ∧
      u.noRestart = true ∧ u.cfg.legal = true ∧ u.fault = some (.linkStall 0) ∧
      v.noRestart = true ∧ v.cfg.legal = true ∧ v.fault = none ∧ v.halted = true ∧
      v.env.host = [⟨true, true, none⟩] ∧
      w.noRestart = true ∧ w.cfg.legal = true ∧ w.fault = none ∧ w.halted = true ∧ w.env.host = [] ∧
      x.noRestart = true ∧ x.cfg.legal = true ∧ x.fault = none ∧ x.halted = false ∧
      x.env.host = [⟨true, true, none⟩] :=
  ⟨State.resetWith { Config.reference with handheldId := 0 },
    { State.reset with fault := some (.linkStall 0) }, eventful { State.reset with halted := true },
    { State.reset with halted := true }, eventful (capturingAt 3 5 .c5),
    by decide, by decide, by decide, by decide, rfl, by decide, by decide, rfl, rfl, rfl, by decide,
    by decide, rfl, rfl, rfl, by decide, by decide, rfl, rfl, rfl⟩

theorem witness_HostTerminationIsAReset :
    (hostInput (withHost
      { exit := false, toggle := true, restart := some ⟨Config.reference, Link.atPowerUp⟩ }
      (capturingAt 3 5 .c5))).1 = some ⟨Config.reference, Link.atPowerUp⟩ := rfl

theorem witness_FirstTransactionIsAPing :
    Config.reference.legal = true ∧ (⟨⟨false, true⟩, [], []⟩ : Tick).events.exit = false ∧
      (⟨⟨false, false⟩, [], []⟩ : Tick).events.exit = false := ⟨by decide, rfl, rfl⟩

theorem witness_ResetMeetsTheInvariant :
    Config.reference.legal = true ∧ Config.reference.aligned = true := ⟨by decide, by decide⟩

/-- A restart that draws the last byte of the last XBUF word (R155). -/
def drawnRestart : HostInput :=
  ⟨false, false, some ⟨Config.reference, { Link.atPowerUp with xbuf := [(127, 7)] }⟩⟩

theorem witness_EveryStepKeepsTheInvariant :
    ((ticking ⟨false, true⟩ State.reset).Inv ∧
      ∃ t, step (ticking ⟨false, true⟩ State.reset) = .next t) ∧
    (withHost drawnRestart State.reset).Inv ∧ ∃ t, step (withHost drawnRestart State.reset) = .next t :=
  ⟨⟨inv_of_check (by decide), _, rfl⟩, inv_of_check (by decide), _, rfl⟩

theorem witness_OnlyLinkStallIsEverRaised :
    ∃ s t : State, s.Inv ∧ s.fault = none ∧ step s = .next t ∧ t.fault ≠ none :=
  ⟨bounded 1 { busyWith [] (inTransfer State.reset .t5) with polls := 1 }, _, inv_of_check (by decide),
    rfl, rfl, by decide⟩

theorem witness_EveryReachableBlockCanStep :
    (capturingAt 511 512 .c3).Inv ∧ (capturingAt 511 512 .c3).fault = none :=
  ⟨inv_of_check (by decide), rfl⟩

theorem witness_SessionInvariantHoldsAndIsGuarded :
    (∃ t, (capturingAt 511 512 .c4).Inv ∧ step (capturingAt 511 512 .c4) = .next t ∧
      t.state = .capturing) ∧
    (∃ t, (capturingAt 0 512 .c7State).Inv ∧ step (capturingAt 0 512 .c7State) = .next t ∧
      t.state = .negotiating) ∧
    -- states no run reaches: the count would pass the target, and a store past the capacity
    (∃ (s t : State), s.noRestart = true ∧ s.cfg.legal = true ∧ s.fault = none ∧ s.halted = false ∧
      runPhase (hostInput s).2 = .next t ∧ t.fault = none ∧ t.state = .capturing ∧
      ¬ (t.capturedCount.toNat ≤ t.targetLength.toNat ∧ t.targetLength.toNat ≤ 512)) ∧
    ∃ (s t : State), s.noRestart = true ∧ s.cfg.legal = true ∧ s.fault = none ∧ s.halted = false ∧
      runPhase (hostInput s).2 = .next t ∧ t.fault = some (.capacityExceeded 600) :=
  ⟨⟨_, inv_of_check (by decide), rfl, by decide⟩, ⟨_, inv_of_check (by decide), rfl, by decide⟩,
    ⟨capturingAt 512 512 .c4, _, by decide, by decide, rfl, rfl, rfl, rfl, by decide, by decide⟩,
    capturingAt 600 512 .c3, _, by decide, by decide, rfl, rfl, rfl, by decide⟩

theorem witness_NoControlWordWhileBusy :
    (∃ s t : State, s.busyOnlyPolling = true ∧ s.link.busy = true ∧ s.noRestart = true ∧
      step s = .next t) ∧
    ∃ (s : State) (x : Transfer), s.busyOnlyPolling = true ∧ s.phase = .transfer (.t4 0x01010381) x :=
  ⟨⟨busyWith [⟨1, 0, 0, []⟩] (inTransfer State.reset .t5), _, by decide, rfl, by decide, rfl⟩,
    inTransfer State.reset (.t4 0x01010381), pingTransfer, by decide, rfl⟩

theorem witness_ConfigurationIsConstantUntilReset :
    ∃ s t : State, s.noRestart = true ∧ step s = .next t :=
  ⟨eventful State.reset, _, by decide, rfl⟩

theorem witness_WidthOfACaptureIsFixed :
    (∃ s t : State, s.Inv ∧ s.noRestart = true ∧ step s = .next t ∧ t.capWidth ≠ s.capWidth) ∧
    (∃ s t : State, s.Inv ∧ s.noRestart = true ∧ step s = .next t ∧ t.widthMode ≠ s.widthMode) ∧
    ∃ (s : State), s.phase = .c6 ∧ s.targetLength.toNat ≤ 512 ∧ s.env.sink = [true] :=
  ⟨⟨{ capturingAt 0 5 .c0 with widthMode := .w16 }, _, inv_of_check (by decide), by decide, rfl,
      by decide⟩,
    ⟨negotiatingAt (.k2 ⟨false, true⟩), _, inv_of_check (by decide), by decide, rfl, by decide⟩,
    answered true (capturingAt 512 512 .c6), rfl, by decide, rfl⟩

theorem witness_StateMovesOnlyAsTabled :
    (∃ s t : State, s.Inv ∧ s.noRestart = true ∧ step s = .next t ∧ s.state = .idle ∧
      t.state ≠ s.state) ∧
    (∃ s t : State, s.Inv ∧ s.noRestart = true ∧ step s = .next t ∧ s.state = .negotiating ∧
      t.state ≠ s.state) ∧
    (∃ s t : State, s.Inv ∧ s.noRestart = true ∧ step s = .next t ∧ s.state = .capturing ∧
      t.state ≠ s.state) ∧
    ∃ s t : State, s.Inv ∧ s.noRestart = true ∧ step s = .next t ∧ s.phase = .c7 ∧ t.phase = .c7State :=
  ⟨⟨{ idleAt (.i2 0x0004) with tResp := 0x00040000 }, _, inv_of_check (by decide), by decide, rfl, rfl,
      by decide⟩,
    ⟨{ negotiatingAt (.n4State 512) with tResp := 0x00020000, targetLength := 512 }, _,
      inv_of_check (by decide), by decide, rfl, rfl, by decide⟩,
    ⟨capturingAt 0 1 .c7State, _, inv_of_check (by decide), by decide, rfl, rfl, by decide⟩,
    capturingAt 1 1 .c7, _, inv_of_check (by decide), by decide, rfl, rfl, rfl⟩

theorem witness_NoStepDependsOnTheRecords :
    (∃ t, step (idleAt (.emit (.unrecognizedDevice 1))) = .next t ∧ t.trace ≠ []) ∧
      (∃ f, step { State.reset with fault := some .invariantViolation } = .fault f) ∧
      ∃ r, step (State.resetWith { Config.reference with handheldId := 0 }) = .refused r :=
  ⟨⟨_, rfl, by decide⟩, ⟨_, rfl⟩, ⟨_, rfl⟩⟩

end Sys2Proof.Machine.Tests
end

section
/-!
PROOFS. The statements of 00_scope.md: which states have a step, that the step is the issued instruction's
own, and the run of a negotiation that ends in a capture. The rules for the host's input and for the block's
step come first; they are stated for every state and serve the other families too.
-/

namespace Sys2Proof.Machine

/-! ### The host's input -/

/-- A coming input of the host latches its events and leaves the queue (R31). -/
theorem hostInput_cons {s : State} {h : HostInput} {rest : List HostInput}
    (hh : s.env.host = h :: rest) :
    hostInput s = (h.restart, { s with
      pendExit := s.pendExit || h.exit
      pendToggle := s.pendToggle || h.toggle
      env := { s.env with host := rest } }) := by
  simp only [hostInput, hh, State.latch]

@[simp] theorem hostInput_cfg (s : State) : (hostInput s).2.cfg = s.cfg := by rw [hostInput_state]
@[simp] theorem hostInput_phase (s : State) : (hostInput s).2.phase = s.phase := by rw [hostInput_state]
@[simp] theorem hostInput_halted (s : State) : (hostInput s).2.halted = s.halted := by
  rw [hostInput_state]
@[simp] theorem hostInput_fault (s : State) : (hostInput s).2.fault = s.fault := by rw [hostInput_state]

/-- The invariant speaks of no latch, and of the host's queue only that each input is allowed. -/
theorem inv_hostInput {s : State} (h : s.Inv) : (hostInput s).2.Inv := by
  have hhost := h.host
  cases hh : s.env.host with
  | nil => rwa [hostInput_empty hh]
  | cons i rest =>
    rw [hostInput_cons hh]
    rw [hh, List.all_cons, Bool.and_eq_true] at hhost
    exact ⟨h.legal, h.aligned, hhost.2, h.session, h.registers, h.phase, h.memory⟩

/-! ### The machine's step -/

/-- A restart by the host is the step (R134). -/
theorem step_restart {s : State} {r : Restart} (h : (hostInput s).1 = some r) :
    step s = .next ((hostInput s).2.hostReset r) := by
  simp only [step, machineStep, h]

/-- Without a restart the step is the block's, from the state in which the host's events are latched. -/
theorem step_noRestart {s : State} (h : s.noRestart = true) : step s = blockStep (hostInput s).2 := by
  have hnone : (hostInput s).1 = none := by simpa [State.noRestart] using h
  simp only [step, machineStep, hnone]

theorem blockStep_illegal {s : State} (hl : s.cfg.legal = false) :
    blockStep s = .refused .illegalConfiguration := by
  simp [blockStep, hl]

theorem blockStep_faulted {s : State} {f : FaultCode} (hl : s.cfg.legal = true)
    (hf : s.fault = some f) : blockStep s = .fault (.stopped f) := by
  simp [blockStep, hl, hf]

theorem blockStep_halted {s : State} (hl : s.cfg.legal = true) (hf : s.fault = none)
    (hh : s.halted = true) : blockStep s = .next s := by
  simp [blockStep, hl, hf, hh]

/-- A block neither faulted nor halted takes the step at its phase, under the guard of R32. -/
theorem blockStep_active {s : State} (hl : s.cfg.legal = true) (hf : s.fault = none)
    (hh : s.halted = false) : blockStep s = guardInvariant s (runPhase s) := by
  simp [blockStep, hl, hf, hh]

/-- The step of a block that is not restarted, faulted or halted, from the state in which the host's events
are latched. -/
theorem step_active {s : State} (hr : s.noRestart = true) (hl : s.cfg.legal = true)
    (hf : s.fault = none) (hh : s.halted = false) :
    step s = guardInvariant (hostInput s).2 (runPhase (hostInput s).2) := by
  rw [step_noRestart hr, blockStep_active (by simpa using hl) (by simpa using hf) (by simpa using hh)]

/-- The guard of R32 turns a next state into a next state. -/
theorem guardInvariant_progress (s t : State) : ∃ u, guardInvariant s (.next t) = .next u := by
  unfold guardInvariant
  dsimp only
  split
  · exact ⟨t, rfl⟩
  · exact ⟨s.raise .invariantViolation, rfl⟩

/-! ### Every label has a next state -/

section Handlers
variable (s : State)

theorem waitTick_progress : ∃ t, waitTick s = .next t := by
  unfold waitTick
  split <;> exact ⟨_, rfl⟩

theorem pollInputStep_progress : ∃ t, pollInputStep s = .next t := by
  unfold pollInputStep
  split <;> exact ⟨_, rfl⟩

theorem eventsStep_progress (ev : Events) : ∃ t, eventsStep ev s = .next t := by
  unfold eventsStep
  split_ifs <;> exact ⟨_, rfl⟩

theorem dispatchStep_progress : ∃ t, dispatchStep s = .next t := by
  unfold dispatchStep
  split <;> exact ⟨_, rfl⟩

theorem identifyStep_progress (id : Half) : ∃ t, identifyStep id s = .next t := by
  unfold identifyStep
  split_ifs <;> exact ⟨_, rfl⟩

theorem errorTestStep_progress : ∃ t, errorTestStep s = .next t := by
  unfold errorTestStep
  split_ifs <;> exact ⟨_, rfl⟩

theorem lengthTestStep_progress (len : Word) : ∃ t, lengthTestStep len s = .next t := by
  unfold lengthTestStep
  split_ifs <;> exact ⟨_, rfl⟩

theorem loopTestStep_progress : ∃ t, loopTestStep s = .next t := by
  unfold loopTestStep
  split_ifs <;> exact ⟨_, rfl⟩

theorem delayStep_progress : ∃ t, delayStep s = .next t := by
  unfold delayStep
  dsimp only
  split_ifs <;> exact ⟨_, rfl⟩

theorem persistStep_progress : ∃ t, persistStep s = .next t := by
  unfold persistStep
  split_ifs
  · split <;> exact ⟨_, rfl⟩
  · exact ⟨_, rfl⟩

/-- No step of the sequencer is refused or stopped, from any state: a fault it raises is a next state. -/
theorem sequencerStep_progress : ∃ t, sequencerStep s = .next t := by
  unfold sequencerStep
  cases s.phase with
  | k0 => exact waitTick_progress s
  | k1 => exact pollInputStep_progress s
  | k2 ev => exact eventsStep_progress s ev
  | k3 => exact dispatchStep_progress s
  | i2 id => exact identifyStep_progress s id
  | n1 => exact errorTestStep_progress s
  | n3 len => exact lengthTestStep_progress s len
  | c1 => exact loopTestStep_progress s
  | c3 => exact finish_next s _
  | c5 => exact delayStep_progress s
  | c6 => exact persistStep_progress s
  | i0 | i1 | n0 | n2 | n4 | c0 | c2 | c4 | c7 | n4State | c7State | emit | transfer => exact ⟨_, rfl⟩

end Handlers

/-- Outside a transfer a command enters its transfer at T1 (R87, log 7). -/
theorem commandStep_enters {s : State} (h : ∀ l x, s.phase ≠ .transfer l x) (x0 : Transfer) :
    commandStep x0 s = .next (s.goto (.transfer .t1 x0)) := by
  unfold commandStep
  split
  · rename_i l x hp
    exact absurd hp (h l x)
  all_goals rfl

/-- No step of a transfer of the invariant is refused: the control word in flight may be written. -/
theorem transferStep_progress {s : State} (h : s.Inv) {l : TransferLabel} {x : Transfer}
    (hp : s.phase = .transfer l x) : ∃ t, transferStep l x s = .next t := by
  cases l with
  | t1 => exact ⟨_, transferStep_t1 x s⟩
  | t2 => exact ⟨_, transferStep_t2 h.legal h.aligned x⟩
  | t3 cw => exact ⟨_, transferStep_t3 h.aligned cw x⟩
  | t4 cw => exact ⟨_, transferStep_t4 h.aligned (controlRefusal_inFlight h hp) x⟩
  | t5 =>
    cases hb : boundReached s.cfg s.polls with
    | true => exact ⟨_, transferStep_t5_bound hb x⟩
    | false => exact ⟨_, transferStep_t5 h.legal h.aligned hb x⟩
  | t6 => exact ⟨_, transferStep_t6 h.aligned x⟩
  | t7 => exact ⟨_, transferStep_t7 h.legal h.aligned x⟩

/-- Where a handler starts its transfer, the command issued there enters it (R107). -/
theorem runPhase_i0 {s : State} (h : s.phase = .i0) :
    runPhase s = .next (s.goto (.transfer .t1 pingTransfer)) := by
  rw [runPhase_instr (i := .ping) (by rw [h]; rfl) rfl]
  exact commandStep_enters (by simp [h]) pingTransfer

/-- Where a handler starts its transfer, the command issued there enters it (R111, R117). -/
theorem runPhase_n0_c2 {s : State} (h : s.phase = .n0 ∨ s.phase = .c2) :
    runPhase s = .next (s.goto (.transfer .t1 (dataTransfer s.state))) := by
  have hf : fetch s.phase = some [dataFrame.cmd] := by rcases h with h | h <;> rw [h] <;> rfl
  rw [runPhase_instr (i := .data) hf rfl]
  exact commandStep_enters (by rcases h with h | h <;> simp [h]) (dataTransfer s.state)

/-- At every label of the invariant the block has a next state (R141). -/
theorem runPhase_progress {s : State} (h : s.Inv) : ∃ t, runPhase s = .next t := by
  have sequencer (hf : fetch s.phase = none) : ∃ t, runPhase s = .next t := by
    rw [runPhase_none hf]
    exact sequencerStep_progress s
  cases hp : s.phase with
  | transfer l x =>
    rw [runPhase_transfer h hp]
    exact transferStep_progress h hp
  | i0 => exact ⟨_, runPhase_i0 hp⟩
  | n0 => exact ⟨_, runPhase_n0_c2 (.inl hp)⟩
  | c2 => exact ⟨_, runPhase_n0_c2 (.inr hp)⟩
  | k0 | k1 | k2 | k3 | i1 | i2 | n1 | n2 | n3 | n4 | c0 | c1 | c3 | c4 | c5 | c6 | c7
  | n4State | c7State | emit => exact sequencer (by rw [hp]; rfl)

/-- A block of the invariant that is not faulted steps: halted it stands, else it takes the step at its
phase. -/
theorem blockStep_progress {s : State} (h : s.Inv) (hf : s.fault = none) :
    ∃ t, blockStep s = .next t := by
  cases hh : s.halted with
  | true => exact ⟨s, blockStep_halted h.legal hf hh⟩
  | false =>
    obtain ⟨t, ht⟩ := runPhase_progress h
    rw [blockStep_active h.legal hf hh, ht]
    exact guardInvariant_progress s t

/-- Settles O54: the invariant survives the host's input, and at every label it holds what the step there
needs. -/
theorem everyReachableBlockCanStep : Obligations.EveryReachableBlockCanStep := by
  intro s h hf
  cases hr : (hostInput s).1 with
  | some r => exact ⟨_, step_restart hr⟩
  | none =>
    rw [step_noRestart (by simp [State.noRestart, hr])]
    exact blockStep_progress (inv_hostInput h) (by simpa using hf)

/-! ### The negotiation that ends in a capture -/

/-- N1 without error bits (R112). -/
theorem runPhase_n1_noErrors {s : State} (h : s.phase = .n1) (he : errorsPending s.cfg s.tStat = false) :
    runPhase s = .next { s with phase := .n2 } := by
  rw [runPhase_none (by rw [h]; rfl)]
  simp only [sequencerStep, h, errorTestStep, he]
  rfl

/-- N3 of an acceptable length (R111). -/
theorem runPhase_n3_accepted {s : State} {len : Word} (h : s.phase = .n3 len)
    (hlen : lengthOk len = true) : runPhase s = .next { s with phase := .n4 len } := by
  rw [runPhase_none (by rw [h]; rfl)]
  simp only [sequencerStep, h, lengthTestStep, hlen]
  rfl

/-- An acceptable length fits the 10 bits of `target_length` (R21, R114). -/
theorem toNat_acceptedLength {len : Word} (h : lengthOk len = true) :
    (len.extractLsb' 0 10).toNat = len.toNat := by
  simp only [lengthOk, Config.lenMax, Bool.and_eq_true, decide_eq_true_eq] at h
  simp only [BitVec.extractLsb'_toNat, Nat.shiftRight_zero]
  omega

/-- R32 in Negotiating. -/
theorem sessionOk_negotiating {s : State} (hs : s.state = .negotiating) (hc : s.capturedCount = 0) :
    s.sessionOk = true := by
  simp [State.sessionOk, hs, hc]

/-- R32 in Capturing, with nothing captured yet. -/
theorem sessionOk_capturing_zero {s : State} (hs : s.state = .capturing) (hc : s.capturedCount = 0)
    (ht : s.targetLength.toNat ≤ Config.lenMax) : s.sessionOk = true := by
  simp [State.sessionOk, hs, hc, ht]

/-- Settles O35: each of the six steps is the one at its label, and R32 holds after it: in Negotiating
the count is 0, and in Capturing the target is at most 512. -/
theorem acceptedLengthStartsACapture : Obligations.AcceptedLengthStartsACapture := by
  intro s h hrun hp herr hlen
  have hst : s.state = .negotiating := by simpa [State.phaseOk, hp] using h.phase
  have hcount : s.capturedCount = 0 := by simpa [State.sessionOk, hst] using h.session
  have hfit := toNat_acceptedLength hlen
  have hmax : ((reverseBytes s.tResp).extractLsb' 0 10).toNat ≤ Config.lenMax := by
    simp only [lengthOk, Bool.and_eq_true, decide_eq_true_eq] at hlen
    exact hfit ▸ hlen.2
  have hnoErrors : errorsPending s.cfg s.tStat = false := by simp [errorsPending, herr]
  -- N1, N2, N3, the two writes of N4, and its Log
  exact ⟨⟨_, step_eq_runPhase hrun h.legal (runPhase_n1_noErrors hp hnoErrors) h.session,
    _, step_eq_runPhase hrun h.legal rfl h.session,
    _, step_eq_runPhase hrun h.legal (runPhase_n3_accepted rfl hlen) h.session,
    _, step_eq_runPhase hrun h.legal rfl (sessionOk_negotiating hst hcount),
    _, step_eq_runPhase hrun h.legal rfl (sessionOk_capturing_zero rfl hcount hmax),
    _, step_eq_runPhase hrun h.legal (runPhase_emit rfl) (sessionOk_capturing_zero rfl hcount hmax),
    rfl⟩, hfit, hcount⟩

/-! ### The issued instruction, and the stopped block -/

/-- Settles O44: the host's input moves neither the phase nor what stops the block, so the block issues there
what it stood at. -/
theorem stepRunsTheIssuedInstruction : Obligations.StepRunsTheIssuedInstruction := by
  intro s bs i hr hl hf hh hfetch hdec
  rw [step_active hr hl hf hh, runPhase_instr (by simpa using hfetch) hdec]

/-- Settles O47, by the four ways a block step begins. -/
theorem stoppedBlockMakesNoStep : Obligations.StoppedBlockMakesNoStep := by
  intro s hr
  refine ⟨fun hl => ?illegal, fun f hl hf => ?faulted, fun hl hf hh => ?halted, fun hl hf hh => ?active⟩
  case illegal =>
    rw [step_noRestart hr]
    exact blockStep_illegal (by simpa using hl)
  case faulted =>
    rw [step_noRestart hr]
    exact blockStep_faulted (by simpa using hl) (by simpa using hf)
  case halted =>
    rw [step_noRestart hr, blockStep_halted (by simpa using hl) (by simpa using hf) (by simpa using hh)]
    exact ⟨fun hnil => by rw [hostInput_empty hnil], fun i rest hcons => by rw [hostInput_cons hcons]⟩
  case active =>
    rw [step_active hr hl hf hh]
    exact ⟨fun hnil => by rw [hostInput_empty hnil], fun i rest hcons => by rw [hostInput_cons hcons]⟩

end Sys2Proof.Machine
end

section
/-!
PROOFS. The statements of 10_state.md: what an instruction writes, what every step keeps, and the invariant of
the machine.
-/

namespace Sys2Proof.Machine

/-! ### The frame of an instruction -/

/-- What an instruction may write: `phase`, the transfer's registers, the fault register, the link controller,
the trace and the controller's coming answers (R17, R28, R87); all else is as before. -/
def State.KeepsSession (s t : State) : Prop :=
  t = { s with
    phase := t.phase, polls := t.polls, tStat := t.tStat, tResp := t.tResp
    fault := t.fault, link := t.link, trace := t.trace
    env := { s.env with xfers := t.env.xfers } }

theorem State.KeepsSession.cfg {s t : State} (h : s.KeepsSession t) : t.cfg = s.cfg := by rw [h]

/-- R32 speaks only of registers that an instruction leaves alone. -/
theorem State.KeepsSession.sessionOk {s t : State} (h : s.KeepsSession t) :
    t.sessionOk = s.sessionOk := by
  rw [h]
  rfl

/-- What holds for a handler throughout its transfer is about registers that no instruction writes. -/
theorem State.KeepsSession.transferOk {s t : State} (h : s.KeepsSession t) (x : Transfer) :
    t.transferOk x = s.transferOk x := by
  rw [h]
  rfl

/-- A checked step that goes on from an access either raises the access's fault and writes nothing else, or
goes on from what the access answers. -/
theorem finish_map_cases {α : Type} {s t : State} {r : Except FaultCode α} {f : α → State}
    (h : finish s (r.map f) = .next t) : (∃ c, t = s.raise c) ∨ ∃ a, r = .ok a ∧ t = f a := by
  obtain ⟨c, _, ht⟩ | ht := finish_cases h
  · exact .inl ⟨c, ht⟩
  · cases r with
    | error c => cases ht
    | ok a => exact .inr ⟨a, rfl, by cases ht; rfl⟩

section Accesses
variable {s t : State} {v : Word}

/-- A port write that is not faulted (R49). -/
theorem portWrite_state {r : PortReg} (h : portWrite r v s = .ok t) :
    t = (s.setLink (s.link.written r v)).record (portWriteEvent r v) := by
  unfold portWrite at h
  split at h <;> cases h
  rfl

/-- A buffer write that is not faulted (R84). -/
theorem bufWrite_state {k : Nat} (h : bufWrite k v s = .ok t) :
    t = (s.setLink { s.link with xbuf := s.link.xbuf.writeWord k v }).record (.wb k v) := by
  unfold bufWrite at h
  split at h <;> cases h
  rfl

/-- A status read that is not faulted only records itself (R50, R86). -/
theorem statRead_state (h : statRead s = .ok (v, t)) : t = s.record (.rStat v) := by
  unfold statRead at h
  split at h <;> cases h
  rfl

/-- A buffer read that is not faulted only records itself (R85). -/
theorem bufRead_state {k : Nat} (h : bufRead k s = .ok (v, t)) : t = s.record (.rb k v) := by
  unfold bufRead at h
  split at h <;> cases h
  rfl

/-- A busy poll that is not faulted is the controller's part and its record (R83). -/
theorem pollBusy_state {b : Bool} (h : pollBusy s = .ok (b, t)) :
    t = (controllerPoll s).record (.rBusy b) := by
  unfold pollBusy at h
  split at h <;> cases h
  rfl

end Accesses

section Frame
variable {s t : State}

theorem raise_keepsSession (f : FaultCode) : s.KeepsSession (s.raise f) := rfl

/-- The controller's part in a poll writes the link and its own coming answers only (R146). -/
theorem controllerPoll_keepsSession (s : State) : s.KeepsSession (controllerPoll s) := by
  obtain ⟨_, e⟩ | ⟨_, _, e⟩ | ⟨_, n, st, r, more, rest, _, e⟩ | ⟨_, st, r, more, rest, _, e⟩ :=
    controllerPoll_cases s <;> rw [e] <;> rfl

/-- Counting a poll writes `polls` only (R81). -/
theorem countPoll_keepsSession (h : s.KeepsSession t) : s.KeepsSession (countPoll t) := by
  rw [countPoll_eq, h]
  rfl

theorem sentinelStep_keepsSession {cw : Word} {x : Transfer} (h : sentinelStep cw x s = .next t) :
    s.KeepsSession t := by
  obtain ⟨f, rfl⟩ | ⟨u, hu, rfl⟩ := finish_map_cases h
  · exact raise_keepsSession f
  · rw [portWrite_state hu]
    rfl

theorem controlWriteStep_keepsSession {cw : Word} {x : Transfer}
    (h : controlWriteStep cw x s = .next t) : s.KeepsSession t := by
  unfold controlWriteStep at h
  split at h
  · cases h
  · obtain ⟨f, rfl⟩ | ⟨u, hu, rfl⟩ := finish_map_cases h
    · exact raise_keepsSession f
    · rw [portWrite_state hu]
      rfl

theorem pollStep_keepsSession {x : Transfer} (h : pollStep x s = .next t) : s.KeepsSession t := by
  unfold pollStep at h
  split at h
  · cases h
    exact raise_keepsSession _
  · obtain ⟨f, rfl⟩ | ⟨⟨b, u⟩, hu, rfl⟩ := finish_map_cases h
    · exact raise_keepsSession f
    · rw [pollBusy_state hu, controllerPoll_keepsSession s]
      cases b with
      | true => exact countPoll_keepsSession rfl
      | false => rfl

theorem statusStep_keepsSession {x : Transfer} (h : statusStep x s = .next t) : s.KeepsSession t := by
  unfold statusStep at h
  split at h
  · obtain ⟨f, rfl⟩ | ⟨⟨v, u⟩, hu, rfl⟩ := finish_map_cases h
    · exact raise_keepsSession f
    · rw [statRead_state hu]
      rfl
  · cases h
    rfl

/-- No label of a transfer writes a session register (R87). -/
theorem transferStep_keepsSession {l : TransferLabel} {x : Transfer}
    (h : transferStep l x s = .next t) : s.KeepsSession t := by
  cases l with
  | t1 =>
    cases h
    rfl
  | t2 =>
    obtain ⟨f, rfl⟩ | ⟨u, hu, rfl⟩ := finish_map_cases h
    · exact raise_keepsSession f
    · rw [bufWrite_state hu]
      rfl
  | t3 cw => exact sentinelStep_keepsSession h
  | t4 cw => exact controlWriteStep_keepsSession h
  | t5 => exact pollStep_keepsSession h
  | t6 => exact statusStep_keepsSession h
  | t7 =>
    obtain ⟨f, rfl⟩ | ⟨⟨v, u⟩, hu, rfl⟩ := finish_map_cases h
    · exact raise_keepsSession f
    · rw [bufRead_state hu]
      rfl

theorem commandStep_keepsSession {x0 : Transfer} (h : commandStep x0 s = .next t) :
    s.KeepsSession t := by
  by_cases hp : ∃ l x, s.phase = .transfer l x
  · obtain ⟨l, x, hp⟩ := hp
    simp only [commandStep, hp] at h
    exact transferStep_keepsSession h
  · rw [commandStep_enters (fun l x hlx => hp ⟨l, x, hlx⟩)] at h
    cases h
    rfl

theorem configureTransfer_keepsSession {c : BitVec 2} {n o : BitVec 7}
    (h : configureTransfer c n o s = .next t) : s.KeepsSession t := by
  unfold configureTransfer at h
  split at h
  · exact controlWriteStep_keepsSession h
  · exact sentinelStep_keepsSession h

/-- Every row of the table is a transfer's command or a `configure_transfer`. -/
theorem exec_keepsSession {i : Instr} (h : exec i s = .next t) : s.KeepsSession t := by
  cases i with
  | ping => exact commandStep_keepsSession h
  | data => exact commandStep_keepsSession h
  | controlWord | cwPingCh0 | cwPingCh1 | cwPingCh2 | cwPingCh3
  | cwDataCh0 | cwDataCh1 | cwDataCh2 | cwDataCh3 => exact configureTransfer_keepsSession h

end Frame

/-- Settles O25: every row is a command's transfer step or a `configure_transfer`, and each of these keeps the
session. -/
theorem instructionsLeaveTheSessionAlone : Obligations.InstructionsLeaveTheSessionAlone :=
  fun _ _ _ h => exec_keepsSession h

/-- The host's input writes no session register. -/
theorem sessionOk_hostInput (s : State) : (hostInput s).2.sessionOk = s.sessionOk := by
  rw [hostInput_state]
  rfl

/-- Settles O45: R32 holds after the host's input, and the instruction leaves every register it speaks of. -/
theorem guardNeverStopsAnInstruction : Obligations.GuardNeverStopsAnInstruction := by
  intro s bs i hr hl hf hh hfetch hdec hs
  rw [stepRunsTheIssuedInstruction s bs i hr hl hf hh hfetch hdec]
  cases he : exec i (hostInput s).2 with
  | fault f => rfl
  | refused why => rfl
  | next t =>
    have ht : t.sessionOk = true := by rw [(exec_keepsSession he).sessionOk, sessionOk_hostInput, hs]
    exact guardInvariant_next ht

/-! ### A poll that reads busy -/

/-- A command of the table is one step of the transfer with its operands (R75). -/
theorem exec_command {i : Instr} {s : State} {x0 : Transfer}
    (h : commandOperands i s.state = some x0) : exec i s = commandStep x0 s := by
  cases i <;> cases h <;> rfl

/-- Inside a transfer a command performs the step of the label the block stands at (R87, log 7). -/
theorem exec_command_transfer {i : Instr} {s : State} {x x0 : Transfer} {l : TransferLabel}
    (h : commandOperands i s.state = some x0) (hp : s.phase = .transfer l x) :
    exec i s = transferStep l (x.forCommand x0) s := by
  rw [exec_command h]
  simp only [commandStep, hp]

/-- T5 below the bound, where the controller is still busy after its part (R81). -/
theorem transferStep_t5_busy {s : State} (hl : s.cfg.legal = true) (ha : s.cfg.aligned = true)
    (hb : boundReached s.cfg s.polls = false) (hbusy : (controllerPoll s).link.busy = true)
    (x : Transfer) :
    transferStep .t5 x s = .next { controllerPoll s with
      polls := if (controllerPoll s).cfg.pollBound.isSome then (controllerPoll s).polls + 1
        else (controllerPoll s).polls
      trace := .rBusy true :: (controllerPoll s).trace
      phase := .transfer .t5 x } := by
  rw [transferStep_t5 hl ha hb]
  simp only [hbusy, if_true, countPoll_eq]
  rfl

/-- The controller stays busy with no answer to come (R83). -/
theorem controllerPoll_noAnswer {s : State} (hbusy : s.link.busy = true) (hx : s.env.xfers = []) :
    controllerPoll s = s := by
  simp only [controllerPoll, hbusy, hx]

/-- The controller stays busy while its answer has busy polls left (R73, R146). -/
theorem controllerPoll_busyPolls {s : State} {a : XferAnswer} {n : Nat} {rest : List XferAnswer}
    (hbusy : s.link.busy = true) (hx : s.env.xfers = a :: rest) (ha : a.busyPolls = n + 1) :
    controllerPoll s =
      { s with env := { s.env with xfers := { a with busyPolls := n } :: rest } } := by
  simp only [controllerPoll, hbusy, hx, ha]

/-- Settles O15: in both cases the controller's part leaves it busy. -/
theorem pollThatReadsBusyStays : Obligations.PollThatReadsBusyStays := by
  intro i s x x0 hi hp hl ha hb hbusy
  rw [exec_command_transfer hi hp]
  have hbound := boundReached_false hb
  refine ⟨fun hx => ?noAnswer, fun n st r more rest hx => ?busyPolls⟩
  case noAnswer =>
    have hc := controllerPoll_noAnswer hbusy hx
    rw [transferStep_t5_busy hl ha hbound (by rw [hc, hbusy]), hc]
  case busyPolls =>
    have hc := controllerPoll_busyPolls hbusy hx rfl
    rw [transferStep_t5_busy hl ha hbound (by rw [hc, hbusy]), hc]

/-! ### What a label of the sequencer can do -/

section Labels
variable {s t : State}

/-- K0: the block holds, or a tick is granted (R102). -/
theorem waitTick_cases (h : waitTick s = .next t) :
    (s.env.ticks = [] ∧ t = s) ∨ ∃ g rest, s.env.ticks = g :: rest ∧
      t = { s.latch g.events.exit g.events.toggle with env := s.env.granted g rest, phase := .k1 } := by
  unfold waitTick at h
  split at h
  · cases h
    exact .inl ⟨‹_›, rfl⟩
  · rename_i g rest hticks
    cases h
    exact .inr ⟨g, rest, hticks, rfl⟩

/-- K1: the latches are polled in Idle and Negotiating; in another tick no event is (R106). -/
theorem pollInputStep_cases (h : pollInputStep s = .next t) :
    ((s.state = .idle ∨ s.state = .negotiating) ∧ t = (pollInput s).2.goto (.k2 (pollInput s).1)) ∨
    ((s.state = .capturing ∨ s.state = .illegal3) ∧
      t = s.goto (.k2 { exit := false, toggle := false })) := by
  cases hs : s.state <;> simp only [pollInputStep, hs] at h <;> cases h <;> simp

/-- K2: exit halts the block, else toggle inverts the width mode, else the dispatch is next (R104, R105). -/
theorem eventsStep_cases {ev : Events} (h : eventsStep ev s = .next t) :
    (ev.exit = true ∧ t = { s.log .exit with halted := true }.record .halt) ∨
    (ev.exit = false ∧ ev.toggle = true ∧
      t = { s with
        widthMode := otherWidth s.widthMode
        phase := .emit (.modeSwitch (otherWidth s.widthMode)) }) ∨
    (ev.exit = false ∧ ev.toggle = false ∧ t = s.goto .k3) := by
  obtain ⟨exit, toggle⟩ := ev
  cases exit <;> cases toggle <;> cases h <;> simp

/-- K3: the handler of the present `state`, or the fault of the illegal one (R101, R141). -/
theorem dispatchStep_cases (h : dispatchStep s = .next t) :
    (s.state = .idle ∧ t = s.goto .i0) ∨ (s.state = .negotiating ∧ t = s.goto .n0) ∨
    (s.state = .capturing ∧ t = s.goto .c0) ∨
    (s.state = .illegal3 ∧ t = s.raise (.illegalState ProtoState.illegal3.code)) := by
  cases hs : s.state <;> simp only [dispatchStep, hs] at h <;> cases h <;> simp

/-- I2: the device sought, another device, or none (R108, R109, R110). -/
theorem identifyStep_cases {id : Half} (h : identifyStep id s = .next t) :
    (id = s.cfg.handheldId ∧
      t = { s with deviceId := id, state := .negotiating, phase := .emit (.deviceDetected id) }) ∨
    (id ≠ s.cfg.handheldId ∧ id ≠ 0 ∧ t = s.goto (.emit (.unrecognizedDevice id))) ∨
    (id ≠ s.cfg.handheldId ∧ id = 0 ∧ t = s.endTick) := by
  unfold identifyStep at h
  by_cases hid : id = s.cfg.handheldId
  · rw [if_pos hid] at h
    cases h
    exact .inl ⟨hid, rfl⟩
  · rw [if_neg hid] at h
    by_cases hz : id = 0
    · rw [if_neg (not_not.mpr hz)] at h
      cases h
      exact .inr (.inr ⟨hid, hz, rfl⟩)
    · rw [if_pos hz] at h
      cases h
      exact .inr (.inl ⟨hid, hz, rfl⟩)

/-- A rejection goes to its record or to K0, and writes no register of the block (R115). -/
theorem reject_cases {cause : RejectCause} (h : reject cause s = .next t) :
    ∃ p, (p = .emit (.negRejected cause) ∨ p = .k0) ∧
      t = { s with freeDraws := s.freeDraws + 1, phase := p } := by
  refine ⟨_, ?_, (Host.Outcome.next.inj h).symm⟩
  split <;> simp

/-- N1: a rejection, or N2 with no error bits pending (R112). -/
theorem errorTestStep_cases (h : errorTestStep s = .next t) :
    (errorsPending s.cfg s.tStat = true ∧ reject .errorBits s = .next t) ∨
    (errorsPending s.cfg s.tStat = false ∧ t = s.goto .n2) := by
  unfold errorTestStep at h
  split at h
  · exact .inl ⟨‹_›, h⟩
  · cases h
    exact .inr ⟨Bool.eq_false_of_not_eq_true ‹_›, rfl⟩

/-- N3: N4 with an acceptable length, or a rejection (R111). -/
theorem lengthTestStep_cases {len : Word} (h : lengthTestStep len s = .next t) :
    (lengthOk len = true ∧ t = s.goto (.n4 len)) ∨
    (lengthOk len = false ∧ reject (lengthCause len) s = .next t) := by
  unfold lengthTestStep at h
  split at h
  · cases h
    exact .inl ⟨‹_›, rfl⟩
  · exact .inr ⟨Bool.eq_false_of_not_eq_true ‹_›, h⟩

/-- C1: another sample while one is missing, else Persist (R117). -/
theorem loopTestStep_cases (h : loopTestStep s = .next t) :
    (s.capturedCount.toNat < s.targetLength.toNat ∧ t = s.goto .c2) ∨
    (s.targetLength.toNat ≤ s.capturedCount.toNat ∧ t = s.goto .c6) := by
  unfold loopTestStep at h
  split at h <;> cases h
  · exact .inl ⟨‹_›, rfl⟩
  · exact .inr ⟨by omega, rfl⟩

/-- C3: the sample is stored, or its index is past the capacity (R118, R48). -/
theorem storeStep_cases (h : storeStep s = .next t) :
    (s.capturedCount.toNat < Config.capMax ∧
      t = ((s.setEntry s.capturedCount.toNat (sampleOf s.capWidth s.tResp)).record
        (.cb s.capturedCount.toNat (sampleOf s.capWidth s.tResp))).goto .c4) ∨
    (Config.capMax ≤ s.capturedCount.toNat ∧
      t = s.raise (.capacityExceeded s.capturedCount.toNat)) := by
  unfold storeStep at h
  rcases Nat.lt_or_ge s.capturedCount.toNat Config.capMax with hcap | hcap
  · rw [memWrite_ok hcap] at h
    cases h
    exact .inl ⟨hcap, rfl⟩
  · rw [memWrite_error hcap] at h
    cases h
    exact .inr ⟨hcap, rfl⟩

/-- C5: the timer is read, and the block holds or the delay is over (R120). -/
theorem delayStep_cases (h : delayStep s = .next t) :
    ((timerReading s).1 < Config.delayMs ∧
      t = { s with env := { s.env with timer := (timerReading s).2 } }) ∨
    (Config.delayMs ≤ (timerReading s).1 ∧ t = { s with
      env := { s.env with timer := (timerReading s).2 }
      trace := .delay Config.delayMs :: s.trace
      phase := .c1 }) := by
  unfold delayStep at h
  dsimp only at h
  split at h <;> cases h
  · exact .inr ⟨‹_›, rfl⟩
  · exact .inl ⟨Nat.lt_of_not_le ‹_›, rfl⟩

/-- C6: the block holds, the sink answers, or the length is past the capacity (R121, R125, R48). -/
theorem persistStep_cases (h : persistStep s = .next t) :
    (s.targetLength.toNat ≤ Config.capMax ∧ s.env.sink = [] ∧ t = s) ∨
    (s.targetLength.toNat ≤ Config.capMax ∧ ∃ opens rest, s.env.sink = opens :: rest ∧
      t = (s.persisted opens rest).goto (.emit (persistLog opens s.targetLength))) ∨
    (Config.capMax < s.targetLength.toNat ∧ t = s.raise (.capacityExceeded Config.capMax)) := by
  unfold persistStep at h
  split at h
  · rename_i hle
    split at h <;> cases h
    · exact .inl ⟨hle, ‹_›, rfl⟩
    · exact .inr (.inl ⟨hle, _, _, ‹_›, rfl⟩)
  · cases h
    exact .inr (.inr ⟨Nat.lt_of_not_le ‹_›, rfl⟩)

end Labels

/-- A step at a phase is an instruction's or the sequencer's own. -/
theorem runPhase_cases {s t : State} (h : runPhase s = .next t) :
    (∃ bs i, fetch s.phase = some bs ∧ decode bs = .ok i ∧ exec i s = .next t) ∨
    (fetch s.phase = none ∧ sequencerStep s = .next t) := by
  unfold runPhase at h
  split at h
  · exact .inr ⟨‹_›, h⟩
  · split at h
    · exact .inl ⟨_, _, ‹_›, ‹_›, h⟩
    · cases h

/-! ### The configuration -/

section Configuration
variable {s t : State}

theorem reject_cfg {cause : RejectCause} (h : reject cause s = .next t) : t.cfg = s.cfg := by
  obtain ⟨p, _, rfl⟩ := reject_cases h
  rfl

/-- No label of the sequencer writes the configuration (R30). -/
theorem sequencerStep_cfg (h : sequencerStep s = .next t) : t.cfg = s.cfg := by
  unfold sequencerStep at h
  cases hp : s.phase <;> simp only [hp] at h
  case k0 => obtain ⟨_, rfl⟩ | ⟨_, _, _, rfl⟩ := waitTick_cases h <;> rfl
  case k1 => obtain ⟨_, rfl⟩ | ⟨_, rfl⟩ := pollInputStep_cases h <;> rfl
  case k2 => obtain ⟨_, rfl⟩ | ⟨_, _, rfl⟩ | ⟨_, _, rfl⟩ := eventsStep_cases h <;> rfl
  case k3 =>
    obtain ⟨_, rfl⟩ | ⟨_, rfl⟩ | ⟨_, rfl⟩ | ⟨_, rfl⟩ := dispatchStep_cases h <;> rfl
  case i2 => obtain ⟨_, rfl⟩ | ⟨_, _, rfl⟩ | ⟨_, _, rfl⟩ := identifyStep_cases h <;> rfl
  case n1 =>
    obtain ⟨_, hr⟩ | ⟨_, rfl⟩ := errorTestStep_cases h
    · exact reject_cfg hr
    · rfl
  case n3 =>
    obtain ⟨_, rfl⟩ | ⟨_, hr⟩ := lengthTestStep_cases h
    · rfl
    · exact reject_cfg hr
  case c1 => obtain ⟨_, rfl⟩ | ⟨_, rfl⟩ := loopTestStep_cases h <;> rfl
  case c3 => obtain ⟨_, rfl⟩ | ⟨_, rfl⟩ := storeStep_cases h <;> rfl
  case c5 => obtain ⟨_, rfl⟩ | ⟨_, rfl⟩ := delayStep_cases h <;> rfl
  case c6 => obtain ⟨_, _, rfl⟩ | ⟨_, _, _, _, rfl⟩ | ⟨_, rfl⟩ := persistStep_cases h <;> rfl
  all_goals
    cases h
    rfl

theorem runPhase_cfg (h : runPhase s = .next t) : t.cfg = s.cfg := by
  obtain ⟨_, _, _, _, hi⟩ | ⟨_, hseq⟩ := runPhase_cases h
  · exact (exec_keepsSession hi).cfg
  · exact sequencerStep_cfg hseq

end Configuration

/-- Settles O57: without a restart the block stands, steps or raises, and none of these writes the
configuration. -/
theorem configurationIsConstantUntilReset : Obligations.ConfigurationIsConstantUntilReset := by
  intro s t hr h
  rw [← hostInput_cfg s]
  obtain ⟨r, hsome, _⟩ | ⟨_, _, _, ⟨_, rfl⟩ | ⟨_, hg⟩⟩ := step_cases h
  · simp [State.noRestart, hsome] at hr
  · rfl
  · obtain ⟨hrun, _⟩ | ⟨_, _, _, _, rfl⟩ := guardInvariant_cases hg
    · exact runPhase_cfg hrun
    · rfl

/-! ### The invariant, clause by clause -/

/-- R32 in the words of 10_state.md, with the capacity written out. -/
theorem sessionOk_iff {s : State} : s.sessionOk = true ↔
    (s.state = .capturing →
      s.capturedCount.toNat ≤ s.targetLength.toNat ∧ s.targetLength.toNat ≤ 512) ∧
    (s.state = .idle ∨ s.state = .negotiating → s.capturedCount = 0) := by
  cases hs : s.state <;> simp [State.sessionOk, hs, Config.lenMax]

theorem inLoop_iff {s : State} :
    s.inLoop = true ↔ s.state = .capturing ∧ s.capWidth = s.widthMode := by
  simp [State.inLoop]

theorem moreSamples_iff {s : State} :
    s.moreSamples = true ↔ s.capturedCount.toNat < s.targetLength.toNat := by
  simp [State.moreSamples]

theorem memoryOk_iff {s : State} : s.memoryOk = true ↔
    s.cbuf.wf = true ∧ s.cbuf.below (4 * Config.capMax) = true ∧ s.link.xbuf.wf = true ∧
      s.link.xbuf.below (4 * s.cfg.cmdBufWords) = true := by
  simp [State.memoryOk, and_assoc]

namespace State.Inv
variable {s : State} (h : s.Inv)
include h

/-- Nothing is captured outside Capturing (R32). -/
theorem count_zero (hs : s.state = .idle ∨ s.state = .negotiating) : s.capturedCount = 0 :=
  (sessionOk_iff.mp h.session).2 hs

/-- In Capturing the count is at most the target, and the target at most the capacity (R32). -/
theorem count_le (hs : s.state = .capturing) :
    s.capturedCount.toNat ≤ s.targetLength.toNat ∧ s.targetLength.toNat ≤ 512 :=
  (sessionOk_iff.mp h.session).1 hs

/-- The device of a session is the one sought (R20). -/
theorem device (hs : s.state = .negotiating ∨ s.state = .capturing) :
    s.deviceId = s.cfg.handheldId := by
  have hr := h.registers
  rcases hs with hs | hs <;> simp only [State.registersOk, hs, Bool.and_eq_true, beq_iff_eq] at hr
  · exact hr
  · exact hr.1

theorem state_legal : s.state ≠ .illegal3 := by
  intro hs
  simpa [State.registersOk, hs] using h.registers

end State.Inv

/-! ### The invariant after an update -/

section Updates
variable {s : State} (h : s.Inv)
include h

/-- The invariant does not speak of the fault register. -/
theorem inv_raise (f : FaultCode) : (s.raise f).Inv :=
  ⟨h.legal, h.aligned, h.host, h.session, h.registers, h.phase, h.memory⟩

/-- A move to a label needs what that label presumes. -/
theorem inv_goto {p : Phase} (hp : (s.goto p).phaseOk = true) : (s.goto p).Inv :=
  ⟨h.legal, h.aligned, h.host, h.session, h.registers, hp, h.memory⟩

/-- A restart that the platform allows meets the invariant, whatever XBUF it draws (R153, R155). -/
theorem inv_hostReset {i : HostInput} {r : Restart} (hi : i.allowed = true) (hr : i.restart = some r) :
    (s.hostReset r).Inv := by
  simp only [HostInput.allowed, hr, Bool.and_eq_true] at hi
  obtain ⟨⟨⟨hlegal, haligned⟩, hwf⟩, hbelow⟩ := hi
  exact ⟨hlegal, haligned, h.host, rfl, by simp [State.registersOk, State.hostReset, State.resetWith], rfl,
    memoryOk_iff.mpr ⟨rfl, rfl, hwf, hbelow⟩⟩

end Updates
/-! ### Each label keeps the invariant -/

section LabelsKeepTheInvariant
variable {s t : State} (h : s.Inv)
include h

theorem inv_waitTick (hp : s.phase = .k0) (e : waitTick s = .next t) : t.Inv := by
  have hcount : s.capturedCount = 0 := by simpa [State.phaseOk, hp] using h.phase
  obtain ⟨_, rfl⟩ | ⟨g, rest, _, rfl⟩ := waitTick_cases e
  · exact h
  · exact ⟨h.legal, h.aligned, h.host, h.session, h.registers, by simp [State.phaseOk, hcount], h.memory⟩

theorem inv_pollInputStep (hp : s.phase = .k1) (e : pollInputStep s = .next t) : t.Inv := by
  have hcount : s.capturedCount = 0 := by simpa [State.phaseOk, hp] using h.phase
  obtain ⟨hs, rfl⟩ | ⟨_, rfl⟩ := pollInputStep_cases e
  · have hcap : s.state ≠ .capturing := by rcases hs with hs | hs <;> simp [hs]
    exact ⟨h.legal, h.aligned, h.host, h.session, h.registers,
      by simp [State.phaseOk, pollInput, hcount, hcap], h.memory⟩
  · exact inv_goto h (by simp [State.phaseOk, hcount])

/-- K2: an event was polled only outside Capturing (R106), so a toggle moves no width that a capture has
latched. -/
theorem inv_eventsStep {ev : Events} (hp : s.phase = .k2 ev) (e : eventsStep ev s = .next t) : t.Inv := by
  have hcount : s.capturedCount = 0 := by
    have hok := h.phase
    simp only [State.phaseOk, hp, Bool.and_eq_true, beq_iff_eq] at hok
    exact hok.1
  obtain ⟨_, rfl⟩ | ⟨_, _, rfl⟩ | ⟨_, _, rfl⟩ := eventsStep_cases e
  · exact ⟨h.legal, h.aligned, h.host, h.session, h.registers, h.phase, h.memory⟩
  · exact ⟨h.legal, h.aligned, h.host, h.session, h.registers,
      by simp [State.phaseOk, State.emitOk, hcount], h.memory⟩
  · exact inv_goto h (by simp [State.phaseOk, hcount])

theorem inv_dispatchStep (hp : s.phase = .k3) (e : dispatchStep s = .next t) : t.Inv := by
  have hcount : s.capturedCount = 0 := by simpa [State.phaseOk, hp] using h.phase
  obtain ⟨hs, rfl⟩ | ⟨hs, rfl⟩ | ⟨hs, rfl⟩ | ⟨hs, rfl⟩ := dispatchStep_cases e
  · exact inv_goto h (by simp [State.phaseOk, hs])
  · exact inv_goto h (by simp [State.phaseOk, hs])
  · exact inv_goto h (by simp [State.phaseOk, hs, hcount])
  · exact absurd hs h.state_legal

/-- I2: the device the block takes is HANDHELD_ID (R20, R109). -/
theorem inv_identifyStep {id : Half} (hp : s.phase = .i2 id) (e : identifyStep id s = .next t) :
    t.Inv := by
  have hs : s.state = .idle := by
    have hok := h.phase
    simp only [State.phaseOk, hp, Bool.and_eq_true, beq_iff_eq] at hok
    exact hok.1
  have hcount := h.count_zero (.inl hs)
  obtain ⟨hid, rfl⟩ | ⟨_, _, rfl⟩ | ⟨_, _, rfl⟩ := identifyStep_cases e
  · exact ⟨h.legal, h.aligned, h.host, by simp [State.sessionOk, hcount],
      by simp [State.registersOk, hid], by simp [State.phaseOk, State.emitOk, hcount], h.memory⟩
  · exact inv_goto h (by simp [State.phaseOk, State.emitOk, hcount])
  · exact inv_goto h (by simp [State.phaseOk, hcount])

/-- A rejection keeps the invariant in Negotiating, where nothing is captured (R115). -/
theorem inv_reject {cause : RejectCause} (hs : s.state = .negotiating) (e : reject cause s = .next t) :
    t.Inv := by
  have hcount := h.count_zero (.inr hs)
  obtain ⟨p, hp, rfl⟩ := reject_cases e
  refine ⟨h.legal, h.aligned, h.host, h.session, h.registers, ?_, h.memory⟩
  rcases hp with rfl | rfl <;> simp [State.phaseOk, State.emitOk, hcount]

theorem inv_errorTestStep (hp : s.phase = .n1) (e : errorTestStep s = .next t) : t.Inv := by
  have hs : s.state = .negotiating := by simpa [State.phaseOk, hp] using h.phase
  obtain ⟨_, hr⟩ | ⟨he, rfl⟩ := errorTestStep_cases e
  · exact inv_reject h hs hr
  · exact inv_goto h (by simp [State.phaseOk, hs, he])

theorem inv_lengthTestStep {len : Word} (hp : s.phase = .n3 len) (e : lengthTestStep len s = .next t) :
    t.Inv := by
  have hok := h.phase
  simp only [State.phaseOk, hp, Bool.and_eq_true, beq_iff_eq] at hok
  obtain ⟨⟨hs, he⟩, hlen⟩ := hok
  obtain ⟨hl, rfl⟩ | ⟨_, hr⟩ := lengthTestStep_cases e
  · exact inv_goto h (by simp [State.phaseOk, hs, he, ← hlen, hl])
  · exact inv_reject h hs hr

theorem inv_identStep (hp : s.phase = .i1) (e : identStep s = .next t) : t.Inv := by
  have hs : s.state = .idle := by simpa [State.phaseOk, hp] using h.phase
  cases e
  exact inv_goto h (by simp [State.phaseOk, hs])

theorem inv_decodeLengthStep (hp : s.phase = .n2) (e : decodeLengthStep s = .next t) : t.Inv := by
  have hok := h.phase
  simp only [State.phaseOk, hp, Bool.and_eq_true, beq_iff_eq] at hok
  obtain ⟨hs, he⟩ := hok
  cases e
  exact inv_goto h (by simp [State.phaseOk, hs, he])

/-- N4: in Negotiating neither R32 nor the registers' clause speaks of `target_length`. -/
theorem inv_acceptStep {len : Word} (hp : s.phase = .n4 len) (e : acceptStep len s = .next t) :
    t.Inv := by
  have hok := h.phase
  simp only [State.phaseOk, hp, Bool.and_eq_true, beq_iff_eq] at hok
  obtain ⟨⟨⟨hs, he⟩, hlen⟩, hl⟩ := hok
  cases e
  exact ⟨h.legal, h.aligned, h.host, sessionOk_negotiating hs (h.count_zero (.inr hs)),
    by simp [State.registersOk, hs, h.device (.inl hs)],
    by simp [State.phaseOk, hs, he, ← hlen, hl], h.memory⟩

/-- N4: the capture begins with nothing captured and an accepted length, which is 1 to 512 (R21, R114). -/
theorem inv_enterCaptureStep {len : Word} (hp : s.phase = .n4State len)
    (e : enterCaptureStep len s = .next t) : t.Inv := by
  have hok := h.phase
  simp only [State.phaseOk, hp, Bool.and_eq_true, beq_iff_eq] at hok
  obtain ⟨⟨⟨⟨hs, _⟩, _⟩, hl⟩, htarget⟩ := hok
  have hcount := h.count_zero (.inr hs)
  have hnat : s.targetLength.toNat = len.toNat := by rw [htarget, toNat_acceptedLength hl]
  simp only [lengthOk, Bool.and_eq_true, decide_eq_true_eq] at hl
  obtain ⟨hpos, hmax⟩ := hl
  cases e
  exact ⟨h.legal, h.aligned, h.host, sessionOk_capturing_zero rfl hcount (by simpa only [hnat] using hmax),
    by simp [State.registersOk, h.device (.inl hs), hnat, Nat.one_le_of_lt hpos],
    by simp [State.phaseOk, State.emitOk, hcount], h.memory⟩

/-- The record is written at a label that presumes what the label after it does. -/
theorem inv_logStep {r : LogRecord} (hp : s.phase = .emit r) (e : logStep r s = .next t) : t.Inv := by
  have hok := h.phase
  simp only [State.phaseOk, hp] at hok
  cases e
  refine ⟨h.legal, h.aligned, h.host, h.session, h.registers, ?_, h.memory⟩
  cases r <;> exact hok

theorem inv_latchWidthStep (hp : s.phase = .c0) (e : latchWidthStep s = .next t) : t.Inv := by
  have hok := h.phase
  simp only [State.phaseOk, hp, Bool.and_eq_true, beq_iff_eq] at hok
  obtain ⟨hs, _⟩ := hok
  have hr := h.registers
  simp only [State.registersOk, hs] at hr
  cases e
  exact ⟨h.legal, h.aligned, h.host, h.session, by simpa [State.registersOk, hs] using hr,
    by simp [State.phaseOk, State.inLoop, hs], h.memory⟩

/-- C1: the loop ends with the count at the target, which R32 keeps it from passing. -/
theorem inv_loopTestStep (hp : s.phase = .c1) (e : loopTestStep s = .next t) : t.Inv := by
  have hloop : s.inLoop = true := by simpa [State.phaseOk, hp] using h.phase
  obtain ⟨hlt, rfl⟩ | ⟨hle, rfl⟩ := loopTestStep_cases e
  · exact inv_goto h (Bool.and_eq_true_iff.mpr ⟨hloop, moreSamples_iff.mpr hlt⟩)
  · have heq : s.capturedCount = s.targetLength :=
      BitVec.eq_of_toNat_eq (le_antisymm (h.count_le (inLoop_iff.mp hloop).1).1 hle)
    exact inv_goto h (Bool.and_eq_true_iff.mpr ⟨hloop, by simp [heq]⟩)

/-- C3: what is stored keeps CBUF within its capacity, since the index is checked (R38, R48). -/
theorem inv_storeStep (hp : s.phase = .c3) (e : storeStep s = .next t) : t.Inv := by
  have hok := h.phase
  simp only [State.phaseOk, hp] at hok
  obtain ⟨hcap, rfl⟩ | ⟨_, rfl⟩ := storeStep_cases e
  · obtain ⟨hwf, hbelow, hxbuf⟩ := memoryOk_iff.mp h.memory
    exact ⟨h.legal, h.aligned, h.host, h.session, h.registers, hok,
      memoryOk_iff.mpr ⟨Memory.wf_writeWord _ _ _ hwf, Memory.below_writeWord _ _ _ _ (by omega) hbelow,
        hxbuf⟩⟩
  · exact inv_raise h _

/-- C4: a count below the target is at most the target when it has been incremented (R119). -/
theorem inv_countStep (hp : s.phase = .c4) (e : countStep s = .next t) : t.Inv := by
  have hok := h.phase
  simp only [State.phaseOk, hp, Bool.and_eq_true] at hok
  obtain ⟨hloop, hmore⟩ := hok
  have hs := (inLoop_iff.mp hloop).1
  have hlt := moreSamples_iff.mp hmore
  have hmax := (h.count_le hs).2
  have hnext : (s.capturedCount + 1).toNat = s.capturedCount.toNat + 1 := by bv_omega
  cases e
  exact ⟨h.legal, h.aligned, h.host, sessionOk_iff.mpr ⟨fun _ => ⟨by rw [hnext]; exact hlt, hmax⟩,
    by simp [hs]⟩, h.registers, hloop, h.memory⟩

theorem inv_delayStep (hp : s.phase = .c5) (e : delayStep s = .next t) : t.Inv := by
  have hloop : s.inLoop = true := by simpa [State.phaseOk, hp] using h.phase
  obtain ⟨_, rfl⟩ | ⟨_, rfl⟩ := delayStep_cases e
  · exact ⟨h.legal, h.aligned, h.host, h.session, h.registers, h.phase, h.memory⟩
  · exact ⟨h.legal, h.aligned, h.host, h.session, h.registers, hloop, h.memory⟩

theorem inv_persistStep (hp : s.phase = .c6) (e : persistStep s = .next t) : t.Inv := by
  have hok := h.phase
  simp only [State.phaseOk, hp] at hok
  obtain ⟨_, _, rfl⟩ | ⟨_, opens, rest, _, rfl⟩ | ⟨_, rfl⟩ := persistStep_cases e
  · exact h
  · exact ⟨h.legal, h.aligned, h.host, h.session, h.registers, by cases opens <;> exact hok, h.memory⟩
  · exact inv_raise h _

theorem inv_countResetStep (hp : s.phase = .c7) (e : countResetStep s = .next t) : t.Inv := by
  have hok := h.phase
  simp only [State.phaseOk, hp, Bool.and_eq_true] at hok
  obtain ⟨hloop, _⟩ := hok
  have hs := (inLoop_iff.mp hloop).1
  cases e
  exact ⟨h.legal, h.aligned, h.host, sessionOk_capturing_zero hs rfl (h.count_le hs).2, h.registers,
    Bool.and_eq_true_iff.mpr ⟨hloop, rfl⟩, h.memory⟩

theorem inv_sessionEndStep (hp : s.phase = .c7State) (e : sessionEndStep s = .next t) : t.Inv := by
  have hok := h.phase
  simp only [State.phaseOk, hp, Bool.and_eq_true, beq_iff_eq] at hok
  obtain ⟨hloop, hcount⟩ := hok
  have hdevice := h.device (.inr (inLoop_iff.mp hloop).1)
  cases e
  exact ⟨h.legal, h.aligned, h.host, sessionOk_negotiating rfl hcount,
    by simpa [State.registersOk, State.endTick] using hdevice,
    by simpa [State.phaseOk, State.endTick] using hcount, h.memory⟩

end LabelsKeepTheInvariant

/-! ### The labels of a transfer keep the invariant -/

/-- The label a handler goes on at presumes what held throughout its transfer (R87). -/
theorem phaseOk_returnPhase {s : State} {x : Transfer} (hp : s.phase = returnPhase x.ret)
    (hx : s.transferOk x = true) : s.phaseOk = true := by
  unfold State.transferOk at hx
  cases hret : x.ret <;> rw [hret] at hp <;> simp only [hret, Bool.and_eq_true, beq_iff_eq] at hx <;>
    simp [State.phaseOk, hp, returnPhase, hx.1]

section TransferKeepsTheInvariant
variable {s t : State} {x : Transfer} (h : s.Inv)
include h

theorem transferOk_of_phase {l : TransferLabel} (hp : s.phase = .transfer l x) :
    s.transferOk x = true := by
  have hok := h.phase
  simp only [State.phaseOk, hp, Bool.and_eq_true] at hok
  exact hok.1

/-- The count that T4 starts from is below every legal bound (R8, R87). -/
theorem boundReached_zero : boundReached s.cfg 0 = false :=
  boundReached_false fun _ hb => Config.pollBound_pos h.legal hb

/-- XBUF keeps its form and its size when word 0 is written (R41). -/
theorem memoryOk_writeCommand (v : Word) :
    (s.setLink { s.link with xbuf := s.link.xbuf.writeWord 0 v }).memoryOk = true := by
  obtain ⟨hcbuf, hbelow, hwf, hsize⟩ := memoryOk_iff.mp h.memory
  have hpos := Config.bufWords_pos h.legal
  exact memoryOk_iff.mpr ⟨hcbuf, hbelow, Memory.wf_writeWord _ _ _ hwf,
    Memory.below_writeWord (4 * s.cfg.cmdBufWords) s.link.xbuf 0 v (by omega) hsize⟩

/-- XBUF keeps its form and its size at the end of a transfer (R41, R43). -/
theorem memoryOk_answered (a : XferAnswer) : (s.setLink (s.link.answered s.cfg a)).memoryOk = true := by
  obtain ⟨hcbuf, hbelow, hwf, hsize⟩ := memoryOk_iff.mp h.memory
  exact memoryOk_iff.mpr ⟨hcbuf, hbelow, Link.wf_answered hwf s.cfg a,
    Link.below_answered h.legal hsize a⟩

/-- The controller's part in a poll below the bound keeps the invariant: whether it stays busy does not
matter there (R89). -/
theorem inv_controllerPoll (hp : s.phase = .transfer .t5 x) (hb : boundReached s.cfg s.polls = false) :
    (controllerPoll s).Inv := by
  obtain ⟨_, e⟩ | ⟨_, _, e⟩ | ⟨_, n, st, r, more, rest, _, e⟩ | ⟨_, st, r, more, rest, _, e⟩ :=
    controllerPoll_cases s <;> rw [e]
  · exact h
  · exact h
  · exact ⟨h.legal, h.aligned, h.host, h.session, h.registers, h.phase, h.memory⟩
  · refine ⟨h.legal, h.aligned, h.host, h.session, h.registers, ?_, memoryOk_answered h _⟩
    have hx := transferOk_of_phase h hp
    simp only [State.phaseOk, hp, Bool.and_eq_true]
    exact ⟨hx, by simp [State.labelOk, hb]⟩

/-- T5: a poll stays there only while the controller is busy, and raises where the bound is reached (R81,
R89). -/
theorem inv_transferStep_t5 (hp : s.phase = .transfer .t5 x) (e : transferStep .t5 x s = .next t) :
    t.Inv := by
  cases hb : boundReached s.cfg s.polls with
  | true =>
    rw [transferStep_t5_bound hb] at e
    cases e
    exact inv_raise h _
  | false =>
    rw [transferStep_t5 h.legal h.aligned hb] at e
    have hc := inv_controllerPoll h hp hb
    have hx : (controllerPoll s).transferOk x = true := by
      rw [(controllerPoll_keepsSession s).transferOk]
      exact transferOk_of_phase h hp
    cases hbusy : (controllerPoll s).link.busy <;> simp only [hbusy, countPoll_eq] at e <;> cases e
    · exact ⟨hc.legal, hc.aligned, hc.host, hc.session, hc.registers,
        Bool.and_eq_true_iff.mpr ⟨hx, rfl⟩, hc.memory⟩
    · exact ⟨hc.legal, hc.aligned, hc.host, hc.session, hc.registers,
        Bool.and_eq_true_iff.mpr ⟨hx, by simp [State.labelOk, hbusy]⟩, hc.memory⟩

/-- Each label of a transfer moves to the next, under what its handler presumes (R87). -/
theorem inv_transferStep {l : TransferLabel} (hp : s.phase = .transfer l x)
    (e : transferStep l x s = .next t) : t.Inv := by
  have hx := transferOk_of_phase h hp
  have hnext {l' : TransferLabel} (hl' : s.labelOk l' x = true) :
      (s.goto (.transfer l' x)).phaseOk = true := Bool.and_eq_true_iff.mpr ⟨hx, hl'⟩
  cases l with
  | t1 =>
    rw [transferStep_t1] at e
    cases e
    exact ⟨h.legal, h.aligned, h.host, h.session, h.registers, hnext (l' := .t2) rfl, h.memory⟩
  | t2 =>
    rw [transferStep_t2 h.legal h.aligned] at e
    cases e
    exact ⟨h.legal, h.aligned, h.host, h.session, h.registers, hnext (l' := .t3 _) (by simp [State.labelOk]),
      memoryOk_writeCommand h _⟩
  | t3 cw =>
    have hcw : s.labelOk (.t4 cw) x = true := by
      have hok := h.phase
      simp only [State.phaseOk, hp, Bool.and_eq_true] at hok
      exact hok.2
    rw [transferStep_t3 h.aligned] at e
    cases e
    exact ⟨h.legal, h.aligned, h.host, h.session, h.registers, hnext hcw, h.memory⟩
  | t4 cw =>
    rw [transferStep_t4 h.aligned (controlRefusal_inFlight h hp)] at e
    cases e
    exact ⟨h.legal, h.aligned, h.host, h.session, h.registers,
      Bool.and_eq_true_iff.mpr ⟨hx, by simp [State.labelOk, boundReached_zero h]⟩, h.memory⟩
  | t5 => exact inv_transferStep_t5 h hp e
  | t6 =>
    rw [transferStep_t6 h.aligned] at e
    cases e
    exact ⟨h.legal, h.aligned, h.host, h.session, h.registers, hnext (l' := .t7) rfl, h.memory⟩
  | t7 =>
    rw [transferStep_t7 h.legal h.aligned] at e
    cases e
    exact ⟨h.legal, h.aligned, h.host, h.session, h.registers, phaseOk_returnPhase rfl hx, h.memory⟩

end TransferKeepsTheInvariant

/-! ### Every step keeps the invariant -/

section StepsKeepTheInvariant
variable {s t : State} (h : s.Inv)
include h

/-- A handler's own labels keep the invariant. -/
theorem inv_sequencerStep (e : sequencerStep s = .next t) : t.Inv := by
  unfold sequencerStep at e
  cases hp : s.phase <;> simp only [hp] at e
  case k0 => exact inv_waitTick h hp e
  case k1 => exact inv_pollInputStep h hp e
  case k2 => exact inv_eventsStep h hp e
  case k3 => exact inv_dispatchStep h hp e
  case i1 => exact inv_identStep h hp e
  case i2 => exact inv_identifyStep h hp e
  case n1 => exact inv_errorTestStep h hp e
  case n2 => exact inv_decodeLengthStep h hp e
  case n3 => exact inv_lengthTestStep h hp e
  case n4 => exact inv_acceptStep h hp e
  case c0 => exact inv_latchWidthStep h hp e
  case c1 => exact inv_loopTestStep h hp e
  case c3 => exact inv_storeStep h hp e
  case c4 => exact inv_countStep h hp e
  case c5 => exact inv_delayStep h hp e
  case c6 => exact inv_persistStep h hp e
  case c7 => exact inv_countResetStep h hp e
  case n4State => exact inv_enterCaptureStep h hp e
  case c7State => exact inv_sessionEndStep h hp e
  case emit => exact inv_logStep h hp e
  case i0 | n0 | c2 | transfer =>
    cases e
    exact h

/-- The step at a phase keeps the invariant: a handler's start enters a transfer under what the handler's
label presumes (R107, R111, R117). -/
theorem inv_runPhase (e : runPhase s = .next t) : t.Inv := by
  have sequencer (hf : fetch s.phase = none) : t.Inv := by
    rw [runPhase_none hf] at e
    exact inv_sequencerStep h e
  have hok := h.phase
  cases hp : s.phase with
  | transfer l x =>
    rw [runPhase_transfer h hp] at e
    exact inv_transferStep h hp e
  | i0 =>
    rw [runPhase_i0 hp] at e
    cases e
    simp only [State.phaseOk, hp, beq_iff_eq] at hok
    exact inv_goto h (by simp [State.phaseOk, State.transferOk, State.labelOk, pingTransfer, hok])
  | n0 =>
    rw [runPhase_n0_c2 (.inl hp)] at e
    cases e
    simp only [State.phaseOk, hp, beq_iff_eq] at hok
    exact inv_goto h (by simp [State.phaseOk, State.transferOk, State.labelOk, dataTransfer, hok])
  | c2 =>
    rw [runPhase_n0_c2 (.inr hp)] at e
    cases e
    simp only [State.phaseOk, hp, Bool.and_eq_true] at hok
    have hs := (inLoop_iff.mp hok.1).1
    refine inv_goto h ?_
    rw [hs]
    exact Bool.and_eq_true_iff.mpr ⟨Bool.and_eq_true_iff.mpr ⟨Bool.and_eq_true_iff.mpr hok, rfl⟩, rfl⟩
  | k0 | k1 | k2 | k3 | i1 | i2 | n1 | n2 | n3 | n4 | c0 | c1 | c3 | c4 | c5 | c6 | c7
  | n4State | c7State | emit => exact sequencer (by rw [hp]; rfl)

/-- A restart that lands is one the platform may provide (R156). -/
theorem restart_allowed {r : Restart} (hr : (hostInput s).1 = some r) :
    ∃ i : HostInput, i.allowed = true ∧ i.restart = some r := by
  have hhost := h.host
  cases hh : s.env.host with
  | nil =>
    rw [hostInput_empty hh] at hr
    cases hr
  | cons i rest =>
    rw [hostInput_cons hh] at hr
    rw [hh, List.all_cons, Bool.and_eq_true] at hhost
    exact ⟨i, hhost.1, hr⟩

/-- The invariant is inductive: a restart establishes it again, and the host's input, the step at the phase
and a fault keep it. -/
theorem inv_step (e : step s = .next t) : t.Inv := by
  have hinput := inv_hostInput h
  obtain ⟨r, hr, rfl⟩ | ⟨_, _, _, ⟨_, rfl⟩ | ⟨_, hg⟩⟩ := step_cases e
  · obtain ⟨i, hi, hir⟩ := restart_allowed h hr
    exact inv_hostReset hinput hi hir
  · exact hinput
  · obtain ⟨hrun, _⟩ | ⟨_, _, _, _, rfl⟩ := guardInvariant_cases hg
    · exact inv_runPhase hinput hrun
    · exact inv_raise hinput _

end StepsKeepTheInvariant

/-- Settles O52, by what a step can be and by the label the block stands at. -/
theorem everyStepKeepsTheInvariant : Obligations.EveryStepKeepsTheInvariant :=
  fun _ _ h e => inv_step h e

/-! ### The guard of R32 -/

/-- The guard answers a state that breaks R32 with `InvariantViolation` alone (R141, R142). -/
theorem guardInvariant_violation {s t : State} (ht : t.sessionOk = false) (hf : t.fault = none) :
    guardInvariant s (.next t) = .next (s.raise .invariantViolation) := by
  simp [guardInvariant, ht, hf]

/-- A state breaks R32 in Capturing by its count or its target, in Idle and Negotiating by its count. -/
theorem sessionOk_false {s : State}
    (h : (s.state = .capturing ∧
        ¬ (s.capturedCount.toNat ≤ s.targetLength.toNat ∧ s.targetLength.toNat ≤ 512)) ∨
      ((s.state = .idle ∨ s.state = .negotiating) ∧ s.capturedCount ≠ 0)) : s.sessionOk = false := by
  refine Bool.eq_false_of_not_eq_true fun hok => ?_
  obtain ⟨hcapturing, hother⟩ := sessionOk_iff.mp hok
  rcases h with ⟨hs, hbad⟩ | ⟨hs, hbad⟩
  · exact hbad (hcapturing hs)
  · exact hbad (hother hs)

/-- Settles O55: R32 is a clause of the invariant, which every step keeps; the guard is applied to the state
that the step at the phase would reach. -/
theorem sessionInvariantHoldsAndIsGuarded : Obligations.SessionInvariantHoldsAndIsGuarded := by
  refine ⟨fun s t h e => sessionOk_iff.mp (inv_step h e).session,
    fun s t hr hl hf hh hrun hfault hbreaks => ?violation, fun s t hr hl hf hh hrun hfault => ?ownFault⟩
  case violation =>
    rw [step_active hr hl hf hh, hrun]
    exact guardInvariant_violation (sessionOk_false hbreaks) hfault
  case ownFault =>
    rw [step_active hr hl hf hh, hrun]
    exact guardInvariant_raised (Option.isSome_iff_ne_none.mpr hfault)

end Sys2Proof.Machine
end

section
/-!
PROOFS. The statement of 20_memory.md: an access at a misaligned address, or of a buffer word past the buffer,
raises `CapacityExceeded` and writes nothing else. The rules for a forbidden access come first, then the
transfer label that makes it.
-/

namespace Sys2Proof.Machine

/-! ### Forbidden accesses (R48) -/

theorem isAligned_false {a : Word} (h : a.toNat % 4 ≠ 0) : isAligned a = false := by
  simp [isAligned, h]

section ForbiddenAccesses
variable {s : State}

theorem portWrite_misaligned {r : PortReg} (h : (s.cfg.addr r).toNat % 4 ≠ 0) (v : Word) :
    portWrite r v s = .error (.capacityExceeded (s.cfg.addr r).toNat) := by
  simp [portWrite, isAligned_false h, misaligned]

theorem statRead_misaligned (h : s.cfg.addrStat.toNat % 4 ≠ 0) :
    statRead s = .error (.capacityExceeded s.cfg.addrStat.toNat) := by
  simp [statRead, isAligned_false h, misaligned]

theorem pollBusy_misaligned (h : (s.cfg.addr s.cfg.busyReg).toNat % 4 ≠ 0) :
    pollBusy s = .error (.capacityExceeded (s.cfg.addr s.cfg.busyReg).toNat) := by
  simp [pollBusy, isAligned_false h, misaligned]

/-- A buffer of no words has no word 0 (R41). -/
theorem bufFault_noWord {c : Config} (h : c.cmdBufWords = 0) :
    bufFault c 0 = some (.capacityExceeded 0) := by
  simp [bufFault, h]

/-- Word 0 stands at `ADDR_BUF` itself (R41). -/
theorem bufFault_misaligned {c : Config} (hw : 1 ≤ c.cmdBufWords) (h : c.addrBuf.toNat % 4 ≠ 0) :
    bufFault c 0 = some (.capacityExceeded c.addrBuf.toNat) := by
  have haddr : c.bufAddr 0 = c.addrBuf := by simp [Config.bufAddr]
  rw [bufFault, if_neg (by omega), haddr, isAligned_false h]
  rfl

theorem bufWrite_fault {k : Nat} {f : FaultCode} (h : bufFault s.cfg k = some f) (v : Word) :
    bufWrite k v s = .error f := by
  simp [bufWrite, h]

theorem bufRead_fault {k : Nat} {f : FaultCode} (h : bufFault s.cfg k = some f) :
    bufRead k s = .error f := by
  simp [bufRead, h]

end ForbiddenAccesses

/-! ### The labels that make them -/

section ForbiddenLabels
variable {s : State}

/-- T2 and T7 fault as buffer word 0 does (R84, R85). -/
theorem exec_command_bufFault {i : Instr} {x x0 : Transfer} {f : FaultCode}
    (hi : commandOperands i s.state = some x0)
    (hp : s.phase = .transfer .t2 x ∨ s.phase = .transfer .t7 x) (hf : bufFault s.cfg 0 = some f) :
    exec i s = .next (s.raise f) := by
  rcases hp with hp | hp <;> rw [exec_command_transfer hi hp]
  · simp only [transferStep, writeCommandStep, bufWrite_fault hf, Except.map, finish_error]
  · simp only [transferStep, responseStep, bufRead_fault hf, Except.map, finish_error]

theorem sentinelStep_misaligned (h : s.cfg.addrStat.toNat % 4 ≠ 0) (cw : Word) (x : Transfer) :
    sentinelStep cw x s = .next (s.raise (.capacityExceeded s.cfg.addrStat.toNat)) := by
  rw [sentinelStep, portWrite_misaligned (r := .stat) h]
  rfl

/-- The address is tested only for a word that may be written (R70, log 9). -/
theorem controlWriteStep_misaligned {cw : Word} (hw : controlRefusal cw = none)
    (h : s.cfg.addrCtrl.toNat % 4 ≠ 0) (x : Transfer) :
    controlWriteStep cw x s = .next (s.raise (.capacityExceeded s.cfg.addrCtrl.toNat)) := by
  simp only [controlWriteStep, hw]
  rw [portWrite_misaligned (r := .ctrl) h]
  rfl

/-- Below the bound, where T5 polls at all (R81). -/
theorem pollStep_misaligned {a : Word} (hb : boundReached s.cfg s.polls = false)
    (ha : s.cfg.addr s.cfg.busyReg = a) (h : a.toNat % 4 ≠ 0) (x : Transfer) :
    pollStep x s = .next (s.raise (.capacityExceeded a.toNat)) := by
  subst ha
  rw [pollStep, hb, pollBusy_misaligned h]
  rfl

theorem statusStep_misaligned {x : Transfer} (hx : x.wantStatus = true)
    (h : s.cfg.addrStat.toNat % 4 ≠ 0) :
    statusStep x s = .next (s.raise (.capacityExceeded s.cfg.addrStat.toNat)) := by
  rw [statusStep, if_pos hx, statRead_misaligned h]
  rfl

end ForbiddenLabels

/-! ### Which step a control word takes, and which word may be written -/

/-- A word of the form of R63 may be written where neither length is 0 (R70). -/
theorem controlRefusal_none {cw : Word} (hw : isControlWord cw = true) (hn : cwInLen cw ≠ 0)
    (ho : cwOutLen cw ≠ 0) : controlRefusal cw = none := by
  simpa [controlRefusal, hasZeroLength, hw] using ⟨hn, ho⟩

section ConfigureTransfer
variable {s : State} (c : BitVec 2) (n o : BitVec 7)

/-- At T4 `configure_transfer` writes the control word (R80). -/
theorem configureTransfer_t4 {cw : Word} {x : Transfer} (hp : s.phase = .transfer (.t4 cw) x) :
    configureTransfer c n o s = controlWriteStep (controlWord c n o) x s := by
  simp [configureTransfer, State.sentinelDone, State.transferOp, hp]

/-- At every other label `configure_transfer` writes the sentinel (R79). -/
theorem configureTransfer_notT4 (hp : ∀ cw x, s.phase ≠ .transfer (.t4 cw) x) :
    configureTransfer c n o s = sentinelStep (controlWord c n o) s.transferOp s := by
  have hdone : s.sentinelDone = false := by
    unfold State.sentinelDone
    split
    · rename_i cw x hp4
      exact absurd hp4 (hp cw x)
    all_goals rfl
  rw [configureTransfer, hdone]
  rfl

end ConfigureTransfer

/-- Settles O24: each instruction is the step of the label it stands at, whose one access is forbidden. -/
theorem forbiddenAccessRaisesCapacityExceeded : Obligations.ForbiddenAccessRaisesCapacityExceeded := by
  refine ⟨fun i s c n o hi => ⟨fun hp h => ?cwSentinel, fun cw x hp hn ho h => ?cwControl⟩,
    fun i s x x0 hi => ⟨fun hp => ⟨fun hw => ?noWord, fun hw h => ?bufAddress⟩,
      fun cw hp h => ?sentinel, fun cw hp hcw hn ho h => ?control,
      fun hp hb => ⟨fun hr h => ?pollCtrl, fun hr h => ?pollStat⟩, fun hp hx h => ?status⟩⟩
  case cwSentinel =>
    rw [exec_control hi, configureTransfer_notT4 c n o hp]
    exact sentinelStep_misaligned h _ _
  case cwControl =>
    have hw : controlRefusal (controlWord c n o) = none := by
      rw [controlRefusal_controlWord, if_neg (not_or.mpr ⟨hn, ho⟩)]
    rw [exec_control hi, configureTransfer_t4 c n o hp]
    exact controlWriteStep_misaligned hw h _
  case noWord => exact exec_command_bufFault hi hp (bufFault_noWord hw)
  case bufAddress => exact exec_command_bufFault hi hp (bufFault_misaligned hw h)
  case sentinel =>
    rw [exec_command_transfer hi hp]
    exact sentinelStep_misaligned h _ _
  case control =>
    rw [exec_command_transfer hi hp]
    exact controlWriteStep_misaligned (controlRefusal_none hcw hn ho) h _
  case pollCtrl =>
    rw [exec_command_transfer hi hp]
    exact pollStep_misaligned (boundReached_false hb) (by rw [hr]; rfl) h _
  case pollStat =>
    rw [exec_command_transfer hi hp]
    exact pollStep_misaligned (boundReached_false hb) (by rw [hr]; rfl) h _
  case status =>
    rw [exec_command_transfer hi hp]
    exact statusStep_misaligned hx h

end Sys2Proof.Machine
end

section
/-!
PROOFS. The statements of 30_encoding.md: the control word's fields and fixed bits, decoding and encoding as
inverses, and what PING, DATA and the control words do with their encodings at the labels of a transfer.
-/

namespace Sys2Proof

/-! ### Packing a control word (R61) -/

/-- Masking to the low `n` bits is what makes an `n`-bit value of an integer. -/
theorem setWidth_ofNat_eq_masked (m n a : Nat) :
    (BitVec.ofNat n a).setWidth m = BitVec.ofNat m (a &&& (2 ^ n - 1)) := by
  apply BitVec.eq_of_toNat_eq
  rw [Nat.and_two_pow_sub_one_eq_mod, BitVec.toNat_setWidth, BitVec.toNat_ofNat, BitVec.toNat_ofNat]

theorem ofNat_shiftLeft (w a k : Nat) : BitVec.ofNat w (a <<< k) = BitVec.ofNat w a <<< k := by
  apply BitVec.eq_of_toNat_eq
  rw [BitVec.toNat_shiftLeft, BitVec.toNat_ofNat, BitVec.toNat_ofNat, Nat.shiftLeft_eq,
    Nat.shiftLeft_eq, Nat.mod_mul_mod]

/-- Settles O4: a field of `n` bits is the masked integer, and packing at 32 bits is packing the integers. -/
theorem controlWordMasksThenPacks : Obligations.ControlWordMasksThenPacks := by
  intro channel inLen outLen
  simp only [BitVec.ofNat_or, ofNat_shiftLeft]
  have hchannel := setWidth_ofNat_eq_masked 32 2 channel
  have hin := setWidth_ofNat_eq_masked 32 7 inLen
  have hout := setWidth_ofNat_eq_masked 32 7 outLen
  simp only [controlWordOf, controlWord, BitVec.zeroExtend, hchannel, hin, hout]
  rfl

/-! ### The equalities of R63, one by one -/

/-- The fixed bits are the reserved ones, which are 0, and CHEN, CMDEN and START, which are 1 (R60). -/
theorem fixedBits_iff (w : Word) :
    w &&& controlFixedMask = controlFixedValue ↔
      w.getLsbD 24 = true ∧ w.getLsbD 7 = true ∧ w.getLsbD 0 = true ∧ w &&& 0xF8808078 = 0 := by
  constructor
  · intro h
    have bit (k : Nat) :
        (w.getLsbD k && controlFixedMask.getLsbD k) = controlFixedValue.getLsbD k := by
      rw [← h, BitVec.getLsbD_and]
    have reserved : w &&& 0xF8808078 = (w &&& controlFixedMask) &&& 0xF8808078 := by
      rw [BitVec.and_assoc]
      rfl
    exact ⟨(Bool.and_eq_true_iff.mp (bit 24)).1, (Bool.and_eq_true_iff.mp (bit 7)).1,
      (Bool.and_eq_true_iff.mp (bit 0)).1, by rw [reserved, h]; rfl⟩
  · rintro ⟨hchen, hcmden, hstart, hreserved⟩
    have flags : w &&& controlFixedValue = controlFixedValue := by
      apply BitVec.eq_of_getLsbD_eq
      intro k hk
      rw [BitVec.getLsbD_and]
      interval_cases k <;> simp [controlFixedValue, hchen, hcmden, hstart]
    have hmask : controlFixedMask = 0xF8808078 ||| controlFixedValue := by decide
    rw [hmask, BitVec.and_or_distrib_left, hreserved, flags]
    rfl

/-- R63: a word is a control word where its two channel fields agree and its fixed bits have their values. -/
theorem isControlWord_iff (w : Word) :
    isControlWord w = true ↔
      (cwChannel w = cwChannel2 w ∧ w.getLsbD 24 = true ∧ w.getLsbD 7 = true ∧
        w.getLsbD 0 = true ∧ w &&& 0xF8808078 = 0) := by
  rw [isControlWord, Bool.and_eq_true, beq_iff_eq, beq_iff_eq, fixedBits_iff, and_comm]

/-- What a word of four bytes decodes to (R63). -/
theorem decodeControl_ok_iff {w : Word} {i : Instr} :
    decodeControl w = .ok i ↔
      isControlWord w = true ∧ controlInstr (cwChannel w) (cwInLen w) (cwOutLen w) = i := by
  cases hw : isControlWord w <;> simp [decodeControl, hw]

/-- Settles O3: the fields of a control word are the masked integers, its fixed bits those of R63; and the
decoder accepts a word exactly where R63 holds. -/
theorem controlWordDecodesToItsMaskedInputs : Obligations.ControlWordDecodesToItsMaskedInputs := by
  refine ⟨fun channel inLen outLen => ?fields, fun w => ?accepted⟩
  case fields =>
    have mask2 (a : Nat) : (BitVec.ofNat 2 a).toNat = a &&& 3 :=
      (Nat.and_two_pow_sub_one_eq_mod a 2).symm
    have mask7 (a : Nat) : (BitVec.ofNat 7 a).toNat = a &&& 0x7F :=
      (Nat.and_two_pow_sub_one_eq_mod a 7).symm
    obtain ⟨_, hfixed⟩ := (isControlWord_iff (controlWordOf channel inLen outLen)).mp
      (isControlWord_controlWord _ _ _)
    refine ⟨?_, ?_, ?_, ?_, hfixed⟩
    · rw [controlWordOf, cwChannel_controlWord, mask2]
    · rw [controlWordOf, cwChannel2_controlWord, mask2]
    · rw [controlWordOf, cwOutLen_controlWord, mask7]
    · rw [controlWordOf, cwInLen_controlWord, mask7]
  case accepted =>
    simp only [decode_bytesOfWord, decodeControl_ok_iff, exists_and_left, exists_eq', and_true,
      isControlWord_iff]

/-! ### Decoding and encoding are inverses -/

/-- Settles O1, one lemma for each row of the table. -/
theorem decodeEncodeGivesTheInstructionBack : Obligations.DecodeEncodeGivesTheInstructionBack := by
  intro i
  cases i with
  | ping => exact Laws.RoundTrip.ping
  | data => exact Laws.RoundTrip.data
  | controlWord c n o => exact Laws.RoundTrip.controlWord c n o
  | cwPingCh0 => exact Laws.RoundTrip.cwPingCh0
  | cwPingCh1 => exact Laws.RoundTrip.cwPingCh1
  | cwPingCh2 => exact Laws.RoundTrip.cwPingCh2
  | cwPingCh3 => exact Laws.RoundTrip.cwPingCh3
  | cwDataCh0 => exact Laws.RoundTrip.cwDataCh0
  | cwDataCh1 => exact Laws.RoundTrip.cwDataCh1
  | cwDataCh2 => exact Laws.RoundTrip.cwDataCh2
  | cwDataCh3 => exact Laws.RoundTrip.cwDataCh3

theorem encode_cwPing (c : BitVec 2) : encode (cwPing c) = bytesOfWord (controlWord c 3 1) := by
  revert c
  decide

theorem encode_cwData (c : BitVec 2) : encode (cwData c) = bytesOfWord (controlWord c 4 1) := by
  revert c
  decide

theorem wellFormed_cwPing (c : BitVec 2) : WellFormed (cwPing c) = true := by
  revert c
  decide

theorem wellFormed_cwData (c : BitVec 2) : WellFormed (cwData c) = true := by
  revert c
  decide

/-- The row that names a control word is the one the table gives it, and encodes to that word (R62). -/
theorem controlInstr_encodes (c : BitVec 2) (i o : BitVec 7) :
    WellFormed (controlInstr c i o) = true ∧
      encode (controlInstr c i o) = bytesOfWord (controlWord c i o) := by
  cases hrow : hasOwnRow i o with
  | false =>
    rw [controlInstr_other c i o hrow]
    exact ⟨by simp [WellFormed, hrow], rfl⟩
  | true =>
    simp only [hasOwnRow, Bool.and_eq_true, Bool.or_eq_true, beq_iff_eq] at hrow
    obtain ⟨rfl, rfl | rfl⟩ := hrow
    · rw [controlInstr_ping]
      exact ⟨wellFormed_cwPing c, encode_cwPing c⟩
    · rw [controlInstr_data]
      exact ⟨wellFormed_cwData c, encode_cwData c⟩

/-- A command byte that decodes is the encoding of its frame (R57, R70). -/
theorem decodeCommand_encodes {b : Byte} {i : Instr} (h : decodeCommand b = .ok i) :
    WellFormed i = true ∧ encode i = [b] := by
  unfold decodeCommand at h
  split_ifs at h with hping hdata <;> cases h
  · exact ⟨rfl, by rw [hping]; rfl⟩
  · exact ⟨rfl, by rw [hdata]; rfl⟩

/-- A word that decodes is the control word of its own fields, so no bit of it is ignored (R63). -/
theorem decodeControl_encodes {w : Word} {i : Instr} (h : decodeControl w = .ok i) :
    WellFormed i = true ∧ encode i = bytesOfWord w := by
  obtain ⟨hw, rfl⟩ := decodeControl_ok_iff.mp h
  have henc := controlInstr_encodes (cwChannel w) (cwInLen w) (cwOutLen w)
  rwa [controlWord_of_isControlWord w hw] at henc

/-- Settles O2: only one byte or four decode, and both are the encoding of what they decode to. -/
theorem decodedBytesAreTheEncoding : Obligations.DecodedBytesAreTheEncoding := by
  intro bs i h
  unfold decode at h
  split at h
  · exact decodeCommand_encodes h
  · rw [← bytesOfWord_wordOfBytes]
    exact decodeControl_encodes h
  · cases h

/-- Settles O6, by evaluation of the decoder. -/
theorem specWordsDecode : Obligations.SpecWordsDecode := by
  unfold Obligations.SpecWordsDecode
  decide

end Sys2Proof

namespace Sys2Proof.Machine

/-! ### The table of R62 -/

theorem controlWord_ping (c : BitVec 2) : controlWord c 3 1 = pingControlWord c := by
  revert c
  decide

theorem controlWord_data (c : BitVec 2) : controlWord c 4 1 = dataControlWord c := by
  revert c
  decide

/-- The frame of a transfer of the invariant is the one of PING or the one of DATA (R107, R111, R117). -/
theorem frame_of_transferOk {s : State} {x : Transfer} (h : s.transferOk x = true) :
    x.frame = pingFrame ∨ x.frame = dataFrame := by
  unfold State.transferOk at h
  cases hret : x.ret <;> simp only [hret, Bool.and_eq_true, beq_iff_eq] at h <;> rw [h.2]
  · exact .inl rfl
  · exact .inr rfl
  · exact .inr rfl

/-- The word in flight is the one of the channel and the frame (R78). -/
theorem controlWord_inFlight {s : State} (h : s.Inv) {cw : Word} {x : Transfer}
    (hp : s.phase = .transfer (.t3 cw) x ∨ s.phase = .transfer (.t4 cw) x) :
    cw = controlWord s.cfg.channel x.frame.inLen x.frame.outLen := by
  have hok := h.phase
  rcases hp with hp | hp <;>
    simp only [State.phaseOk, hp, State.labelOk, Bool.and_eq_true, beq_iff_eq] at hok <;> exact hok.2

/-- Settles O5: the words of the table by evaluation, and the word in flight by its frame. -/
theorem onlyTheTabledControlWordsAreIssued : Obligations.OnlyTheTabledControlWordsAreIssued := by
  refine ⟨fun c => ⟨controlWord_ping c, controlWord_data c, ?ping, ?data⟩, fun s cw x h hp => ?inFlight⟩
  case ping => rw [← controlWord_ping, decode_controlWord, controlInstr_ping]
  case data => rw [← controlWord_data, decode_controlWord, controlInstr_data]
  case inFlight =>
    have hx : s.transferOk x = true := hp.elim (transferOk_of_phase h) (transferOk_of_phase h)
    rw [controlWord_inFlight h hp]
    rcases frame_of_transferOk hx with hframe | hframe <;> rw [hframe]
    · exact .inl (controlWord_ping _)
    · exact .inr (controlWord_data _)

/-! ### PING and DATA at the labels of a transfer -/

/-- Settles O10: outside a transfer a command enters its own (R87). -/
theorem commandEntersItsTransfer : Obligations.CommandEntersItsTransfer := by
  refine ⟨fun _ => rfl, rfl, rfl, fun i s x0 hi hp => ?_⟩
  rw [exec_command hi, commandStep_enters hp]
  rfl

/-- Settles O12: the step is T2's, and a word written to XBUF leaves every byte outside it (R84). -/
theorem commandWritesItsByteToTheBuffer : Obligations.CommandWritesItsByteToTheBuffer := by
  intro i s x x0 hi hp hl ha
  refine ⟨_, by rw [exec_command_transfer hi hp, transferStep_t2 hl ha], rfl, fun hwf => ?_⟩
  refine ⟨Memory.wf_writeWord _ _ _ hwf, Memory.readWord_writeWord_same _ _ _ hwf, fun a h4 => ?_⟩
  rw [Memory.read_writeWord _ _ _ _ hwf]
  repeat rw [if_neg (by omega)]

/-- A word of the form of R63 with a zero length is refused by that name (R70). -/
theorem controlRefusal_zeroLength {cw : Word} (hw : isControlWord cw = true)
    (h0 : cwInLen cw = 0 ∨ cwOutLen cw = 0) : controlRefusal cw = some (.zeroLength cw) := by
  have hzero : hasZeroLength cw = true := by simpa [hasZeroLength] using h0
  simp [controlRefusal, hw, hzero]

/-- A word that fails R63 is refused by that name (R70). -/
theorem controlRefusal_notControlWord {cw : Word} (hw : isControlWord cw = false) :
    controlRefusal cw = some (.unmodelled (.notControlWord cw)) := by
  simp [controlRefusal, hw]

/-- START is a fixed bit of R63. -/
theorem start_of_isControlWord {cw : Word} (hw : isControlWord cw = true) : cw.getLsbD 0 = true := by
  obtain ⟨_, _, _, hstart, _⟩ := (isControlWord_iff cw).mp hw
  exact hstart

/-- The control-word write makes the controller busy, because START is set (R80). -/
theorem controlWriteStep_starts {s : State} (ha : s.cfg.aligned = true) {cw : Word}
    (hw : isControlWord cw = true) (hn : cwInLen cw ≠ 0) (ho : cwOutLen cw ≠ 0) (x : Transfer) :
    controlWriteStep cw x s = .next { s with
      link := { s.link with ctrl := cw, busy := true }
      trace := .wCtrl cw :: s.trace
      polls := 0
      phase := .transfer .t5 x } := by
  have h := transferStep_t4 ha (controlRefusal_none hw hn ho) x
  rwa [start_of_isControlWord hw, Bool.or_true] at h

/-- Settles O13: the steps are those of T3 and T4, and T4 asks first whether the word may be written. -/
theorem commandIssuesTheControlWordInFlight : Obligations.CommandIssuesTheControlWordInFlight := by
  intro i s x x0 cw hi ha
  refine ⟨fun hp => ?sentinel, fun hp => ?control⟩
  case sentinel => rw [exec_command_transfer hi hp, transferStep_t3 ha]
  case control =>
    rw [exec_command_transfer hi hp]
    exact ⟨fun hw hn ho => controlWriteStep_starts ha hw hn ho _,
      fun hw h0 => controlWriteStep_refused (controlRefusal_zeroLength hw h0) _ _,
      fun hw => controlWriteStep_refused (controlRefusal_notControlWord hw) _ _⟩

/-- T5 below the bound, where the controller is no longer busy after its part (R81). -/
theorem transferStep_t5_idle {s : State} (hl : s.cfg.legal = true) (ha : s.cfg.aligned = true)
    (hb : boundReached s.cfg s.polls = false) (hidle : (controllerPoll s).link.busy = false)
    (x : Transfer) :
    transferStep .t5 x s = .next { controllerPoll s with
      trace := .rBusy false :: (controllerPoll s).trace
      phase := .transfer .t6 x } := by
  rw [transferStep_t5 hl ha hb, hidle]
  rfl

/-- With no transfer in progress the controller has no part in a poll (R146). -/
theorem controllerPoll_idle {s : State} (h : s.link.busy = false) : controllerPoll s = s := by
  simp only [controllerPoll, h]

/-- An answer with no busy poll left ends the transfer (R146). -/
theorem controllerPoll_answer {s : State} {a : XferAnswer} {rest : List XferAnswer}
    (hbusy : s.link.busy = true) (hx : s.env.xfers = a :: rest) (ha : a.busyPolls = 0) :
    controllerPoll s =
      { s with link := s.link.answered s.cfg a, env := { s.env with xfers := rest } } := by
  simp only [controllerPoll, hbusy, hx, ha]

/-- Settles O14: in both cases the controller's part leaves it idle; what an answer writes to XBUF is the
rule of the answered link. -/
theorem pollThatReadsIdleEndsTheWait : Obligations.PollThatReadsIdleEndsTheWait := by
  intro i s x x0 hi hp hl ha hb
  rw [exec_command_transfer hi hp]
  have hbound := boundReached_false hb
  refine ⟨fun hidle => ?idle, fun st r more rest hbusy hx => ?answered⟩
  case idle =>
    have hc := controllerPoll_idle hidle
    rw [transferStep_t5_idle hl ha hbound (by rw [hc, hidle]), hc]
  case answered =>
    have hc := controllerPoll_answer hbusy hx rfl
    refine ⟨_, transferStep_t5_idle hl ha hbound (by rw [hc]; rfl) _, by rw [hc]; rfl, fun hwf => ?_⟩
    rw [hc]
    exact ⟨Link.wf_answered hwf _ _, Link.readWord_answered hwf _ _,
      fun a h4 => Link.read_answered hwf _ _ h4⟩

/-! ### The control words -/

/-- Settles O22: at T4 `configure_transfer` is the control-word write of its word. -/
theorem configureWritesTheControlWordAndStarts : Obligations.ConfigureWritesTheControlWordAndStarts := by
  intro i s c n o cw x hi hp
  rw [exec_control hi, configureTransfer_t4 c n o hp]
  refine ⟨fun hn ho ha => ?_, fun h0 => ?_⟩
  · exact controlWriteStep_starts ha (isControlWord_controlWord c n o) (by simpa using hn)
      (by simpa using ho) x
  · exact controlWriteStep_refused (by rw [controlRefusal_controlWord, if_pos h0]) x s

/-- What a write to a port leaves alone: the transfer's registers, the coming answers, STAT as it is read, and
XBUF (R60, log 18). -/
def State.KeepsReads (s t : State) : Prop :=
  t.tStat = s.tStat ∧ t.tResp = s.tResp ∧ t.link.stat = s.link.stat ∧ t.env = s.env ∧
    t.link.xbuf = s.link.xbuf

section KeepsReads
variable {s t : State} {v : Word}

theorem raise_keepsReads (f : FaultCode) : s.KeepsReads (s.raise f) := ⟨rfl, rfl, rfl, rfl, rfl⟩

theorem portWrite_keepsReads {r : PortReg} (h : portWrite r v s = .ok t) : s.KeepsReads t := by
  rw [portWrite_state h]
  cases r <;> exact ⟨rfl, rfl, rfl, rfl, rfl⟩

theorem sentinelStep_keepsReads {x : Transfer} (h : sentinelStep v x s = .next t) :
    s.KeepsReads t := by
  obtain ⟨f, rfl⟩ | ⟨u, hu, rfl⟩ := finish_map_cases h
  · exact raise_keepsReads f
  · exact (portWrite_keepsReads hu : s.KeepsReads u)

theorem controlWriteStep_keepsReads {x : Transfer} (h : controlWriteStep v x s = .next t) :
    s.KeepsReads t := by
  unfold controlWriteStep at h
  split at h
  · cases h
  · obtain ⟨f, rfl⟩ | ⟨u, hu, rfl⟩ := finish_map_cases h
    · exact raise_keepsReads f
    · exact (portWrite_keepsReads hu : s.KeepsReads u)

theorem configureTransfer_keepsReads {c : BitVec 2} {n o : BitVec 7}
    (h : configureTransfer c n o s = .next t) : s.KeepsReads t := by
  unfold configureTransfer at h
  split at h
  · exact controlWriteStep_keepsReads h
  · exact sentinelStep_keepsReads h

end KeepsReads

/-- Settles O26: a control word's one access is a write to a port. -/
theorem controlWordsOnlyWriteThePorts : Obligations.ControlWordsOnlyWriteThePorts := by
  intro i s t c n o hi h
  rw [exec_control hi] at h
  obtain ⟨hstat, hresp, hlink, henv, hxbuf⟩ := configureTransfer_keepsReads h
  exact ⟨hstat, hresp, hlink, henv, fun a => by rw [hxbuf]⟩

/-! ### Bytes that are no instruction, and words that may not be written -/

/-- Bytes that do not decode are refused where they are issued (R70, R88). -/
theorem runPhase_undecoded {s : State} {bs : List Byte} {e : DecodeError} (h : fetch s.phase = some bs)
    (hd : decode bs = .error e) : runPhase s = .refused (.unmodelled e) := by
  simp [runPhase, h, hd]

/-- The machine's step refuses what the step at its phase does: the guard of R32 is about next states. -/
theorem step_refused {s : State} {why : Refusal} (hr : s.noRestart = true) (hl : s.cfg.legal = true)
    (hf : s.fault = none) (hh : s.halted = false)
    (h : runPhase (hostInput s).2 = .refused why) : step s = .refused why := by
  rw [step_active hr hl hf hh, h]
  rfl

/-- R57, R70: no other byte is a command. -/
theorem decodeCommand_unknown {b : Byte} (hping : b ≠ 0x00) (hdata : b ≠ 0x14) :
    decodeCommand b = .error (.unknownCommand b) := by
  rw [decodeCommand, if_neg hping, if_neg hdata]

/-- R63, R70: no other word is a control word. -/
theorem decodeControl_notControlWord {w : Word} (h : isControlWord w = false) :
    decodeControl w = .error (.notControlWord w) := by
  simp [decodeControl, h]

/-- At T4 the step of a control word in flight is its own write to CTRL (R80). -/
theorem runPhase_t4 {s : State} {cw : Word} {x : Transfer} (hp : s.phase = .transfer (.t4 cw) x)
    (hw : isControlWord cw = true) : runPhase s = controlWriteStep cw x s := by
  rw [runPhase_instr (by rw [hp]; rfl)
      (by rw [decode_bytesOfWord]; exact decodeControl_ok_iff.mpr ⟨hw, rfl⟩),
    exec_control (controlFields_controlInstr _ _ _), configureTransfer_t4 _ _ _ hp,
    controlWord_of_isControlWord cw hw]

/-- Settles O46: the bytes at the phase do not decode, or decode to a word that may not be written. -/
theorem unknownCommandsAreRefused : Obligations.UnknownCommandsAreRefused := by
  refine ⟨fun s x hr hl hf hh hp hping hdata => ?command, fun s x cw hr hl hf hh hp hw => ?word,
    fun s x cw hr hl hf hh hp hw h0 => ?zeroLength⟩
  case command =>
    refine step_refused hr hl hf hh ?_
    exact runPhase_undecoded (bs := [x.frame.cmd]) (by rw [hostInput_phase, hp]; rfl)
      (decodeCommand_unknown hping hdata)
  case word =>
    have hfetch : fetch s.phase = some (bytesOfWord cw) := by rcases hp with hp | hp <;> rw [hp] <;> rfl
    refine step_refused hr hl hf hh ?_
    exact runPhase_undecoded (by rwa [hostInput_phase])
      (by rw [decode_bytesOfWord, decodeControl_notControlWord hw])
  case zeroLength =>
    refine step_refused hr hl hf hh ?_
    rw [runPhase_t4 (by rwa [hostInput_phase]) hw]
    exact controlWriteStep_refused (controlRefusal_zeroLength hw h0) _ _

end Sys2Proof.Machine
end

section
/-!
PROOFS. The statements of 40_register_port.md: the labels of a transfer, the busy polls, and a whole transfer;
`configure_transfer` in its two steps; and that no control word is written while the controller is busy.
-/

namespace Sys2Proof.Machine

/-! ### The machine's step in a transfer -/

/-- In a transfer of the invariant a running block takes the step of its label: no instruction writes a
register that R32 speaks of. -/
theorem step_transfer {s t : State} (h : s.Inv) (hrun : s.running = true) {l : TransferLabel} {x : Transfer}
    (hp : s.phase = .transfer l x) (e : transferStep l x s = .next t) : step s = .next t :=
  step_eq_runPhase hrun h.legal (by rw [runPhase_transfer h hp, e])
    (by rw [(transferStep_keepsSession e).sessionOk]; exact h.session)

/-! ### Busy polls -/

/-- The controller answers the next `k` polls busy: no answer is to come, or one with `k` busy polls left
(R73, R146). -/
def staysBusy (k : Nat) : List XferAnswer → Prop
  | [] => True
  | a :: _ => k ≤ a.busyPolls

/-- The coming answers after `k` polls that read busy. -/
def answersAfter (k : Nat) : List XferAnswer → List XferAnswer
  | [] => []
  | a :: rest => { a with busyPolls := a.busyPolls - k } :: rest

theorem staysBusy_mono {j k : Nat} (hjk : j ≤ k) {xs : List XferAnswer} (h : staysBusy k xs) :
    staysBusy j xs := by
  cases xs with
  | nil => trivial
  | cons a rest => exact Nat.le_trans hjk h

/-- The `k + 1` busy polls of an answer are `k` and one more. -/
theorem staysBusy_succ {k : Nat} {xs : List XferAnswer} (h : staysBusy (k + 1) xs) :
    staysBusy 1 (answersAfter k xs) := by
  cases xs with
  | nil => trivial
  | cons a rest => exact Nat.le_sub_of_add_le' h

theorem answersAfter_zero (xs : List XferAnswer) : answersAfter 0 xs = xs := by
  cases xs <;> rfl

theorem answersAfter_succ (k : Nat) (xs : List XferAnswer) :
    answersAfter (k + 1) xs = answersAfter 1 (answersAfter k xs) := by
  cases xs <;> rfl

/-- The state after `k` polls that read busy (R81, R83, R146). -/
def State.busyPolled (s : State) (k : Nat) : State :=
  { s with
    polls := if s.cfg.pollBound.isSome then s.polls + k else s.polls
    env := { s.env with xfers := answersAfter k s.env.xfers }
    trace := List.replicate k (.rBusy true) ++ s.trace }

theorem State.busyPolled_zero (s : State) : s.busyPolled 0 = s := by
  simp only [State.busyPolled, answersAfter_zero, Nat.add_zero, ite_self]
  rfl

theorem State.busyPolled_succ (s : State) (k : Nat) :
    (s.busyPolled k).busyPolled 1 = s.busyPolled (k + 1) := by
  simp only [State.busyPolled, answersAfter_succ k]
  congr 1
  split_ifs <;> rfl

section BusyPolls
variable {s : State} {x : Transfer} {k : Nat}

/-- With no answer to come nothing is left to count down (R83). -/
theorem State.busyPolled_noAnswer (hx : s.env.xfers = []) :
    s.busyPolled k = { s with
      polls := if s.cfg.pollBound.isSome then s.polls + k else s.polls
      trace := List.replicate k (.rBusy true) ++ s.trace } := by
  have hafter : answersAfter k s.env.xfers = s.env.xfers := by rw [hx]; rfl
  simp only [State.busyPolled, hafter]

/-- An answer with `n + k` busy polls has `n` left. -/
theorem State.busyPolled_answer {n : Nat} {st r : Word} {more : List Byte} {rest : List XferAnswer}
    (hx : s.env.xfers = ⟨n + k, st, r, more⟩ :: rest) :
    s.busyPolled k = { s with
      polls := if s.cfg.pollBound.isSome then s.polls + k else s.polls
      env := { s.env with xfers := ⟨n, st, r, more⟩ :: rest }
      trace := List.replicate k (.rBusy true) ++ s.trace } := by
  simp only [State.busyPolled, hx, answersAfter, Nat.add_sub_cancel]

/-- The controller's part in a poll that it answers busy. -/
theorem controllerPoll_staysBusy (hbusy : s.link.busy = true) (hx : staysBusy 1 s.env.xfers) :
    controllerPoll s = { s with env := { s.env with xfers := answersAfter 1 s.env.xfers } } := by
  cases ha : s.env.xfers with
  | nil =>
    rw [controllerPoll_noAnswer hbusy ha, answersAfter, ← ha]
  | cons a rest =>
    rw [ha] at hx
    exact controllerPoll_busyPolls hbusy ha (Nat.sub_add_cancel hx).symm

variable (h : s.Inv) (hrun : s.running = true) (hp : s.phase = .transfer .t5 x)
  (hbusy : s.link.busy = true)
include h hrun hp hbusy

/-- At T5 below the bound one poll of a controller that stays busy is one busy read (R81). -/
theorem step_busyPoll (hb : boundReached s.cfg s.polls = false) (hx : staysBusy 1 s.env.xfers) :
    step s = .next (s.busyPolled 1) := by
  have hc := controllerPoll_staysBusy hbusy hx
  rw [step_transfer h hrun hp (transferStep_t5_busy h.legal h.aligned hb (by rw [hc, hbusy]) x), hc, ← hp]
  rfl

omit hrun in
/-- A busy controller may be polled at any count (R89). -/
theorem inv_busyPolled : (s.busyPolled k).Inv := by
  refine ⟨h.legal, h.aligned, h.host, h.session, h.registers, ?_, h.memory⟩
  have hx := transferOk_of_phase h hp
  rw [State.phaseOk, show (s.busyPolled k).phase = .transfer .t5 x from hp]
  exact Bool.and_eq_true_iff.mpr ⟨hx, by simp [State.labelOk, State.busyPolled, hbusy]⟩

/-- R81, R83: from T5, as long as the bound is not reached and the controller stays busy, each step is one more
busy read. -/
theorem stepsTo_busyPolls (hb : ∀ b, s.cfg.pollBound = some b → s.polls + k ≤ b)
    (hx : staysBusy k s.env.xfers) : stepsTo k s (s.busyPolled k) := by
  induction k with
  | zero => exact (s.busyPolled_zero).symm
  | succ k ih =>
    have hsteps : stepsTo k s (s.busyPolled k) :=
      ih (fun b hbound => Nat.le_of_succ_le (hb b hbound)) (staysBusy_mono (Nat.le_succ k) hx)
    have hbelow : boundReached (s.busyPolled k).cfg (s.busyPolled k).polls = false := by
      refine boundReached_false fun b hbound => ?_
      have hpolls : (s.busyPolled k).polls = s.polls + k :=
        if_pos (by rw [show s.cfg.pollBound = some b from hbound]; rfl)
      exact hpolls ▸ hb b hbound
    rw [← s.busyPolled_succ]
    exact stepsTo_snoc hsteps
      (step_busyPoll (inv_busyPolled h hp hbusy) hrun hp hbusy hbelow (staysBusy_succ hx))

end BusyPolls

/-! ### A whole transfer -/

/-- The state at T5 after T1 to T4 of a transfer (R78, R82, R84, R87). -/
def State.transferStarted (s : State) (x : Transfer) : State :=
  { s with
    phase := .transfer .t5 x
    polls := 0
    link := {
      ctrl := controlWord s.cfg.channel x.frame.inLen x.frame.outLen
      stat := s.link.stat &&& ~~~s.cfg.errMask s.cfg.channel
      statWritten := s.cfg.sentinel
      busy := true
      xbuf := s.link.xbuf.writeWord 0 (commandWord x.frame.cmd) }
    trace := .wCtrl (controlWord s.cfg.channel x.frame.inLen x.frame.outLen) ::
      .wStat s.cfg.sentinel :: .wb 0 (commandWord x.frame.cmd) :: .clr s.cfg.channel :: s.trace }

/-- The state after the poll that reads idle, T6 and T7, where the answer ends the transfer (R85, R86, R146). -/
def State.transferEnded (s : State) (x : Transfer) (a : XferAnswer) (rest : List XferAnswer) : State :=
  { s with
    phase := returnPhase x.ret
    tStat := if x.wantStatus then a.stat else s.tStat
    tResp := a.resp
    link := { s.link with stat := a.stat, busy := false, xbuf := s.link.xbuf.writeWord 0 a.resp }
    env := { s.env with xfers := rest }
    trace := .rb 0 a.resp ::
      ((if x.wantStatus then [.rStat a.stat] else []) ++ .rBusy false :: s.trace) }

section WholeTransfer
variable {s : State} {x : Transfer} (h : s.Inv) (hrun : s.running = true)
include h hrun

/-- T1 to T4 of a transfer of the invariant. -/
theorem stepsTo_transferStarted (hp : s.phase = .transfer .t1 x) :
    stepsTo 4 s (s.transferStarted x) ∧ (s.transferStarted x).Inv := by
  have e1 := step_transfer h hrun hp (transferStep_t1 x s)
  have h1 := inv_step h e1
  have e2 := step_transfer h1 hrun rfl (transferStep_t2 h1.legal h1.aligned x)
  have h2 := inv_step h1 e2
  have e3 := step_transfer h2 hrun rfl (transferStep_t3 h2.aligned _ x)
  have h3 := inv_step h2 e3
  have e4 := step_transfer h3 hrun rfl (transferStep_t4 h3.aligned (controlRefusal_inFlight h3 rfl) x)
  rw [start_controlWord, Bool.or_true] at e4
  exact ⟨⟨_, e1, _, e2, _, e3, _, e4, rfl⟩, inv_step h3 e4⟩

/-- The last poll, T6 and T7 of a transfer of the invariant that receives at most four bytes. -/
theorem stepsTo_transferEnded (hp : s.phase = .transfer .t5 x) (hbusy : s.link.busy = true)
    (hb : boundReached s.cfg s.polls = false) {a : XferAnswer} {rest : List XferAnswer}
    (hx : s.env.xfers = a :: rest) (ha : a.busyPolls = 0) (hlen : (cwInLen s.link.ctrl).toNat ≤ 4) :
    stepsTo 3 s (s.transferEnded x a rest) := by
  have hc := controllerPoll_answer hbusy hx ha
  have hlink : s.link.answered s.cfg a =
      { s.link with stat := a.stat, busy := false, xbuf := s.link.xbuf.writeWord 0 a.resp } := by
    rw [Link.answered, Link.received_nil hlen]
    rfl
  obtain ⟨_, _, hwf, _⟩ := memoryOk_iff.mp h.memory
  have hread : (s.link.xbuf.writeWord 0 a.resp).readWord 0 = a.resp :=
    Memory.readWord_writeWord_same _ _ _ hwf
  have e5 := step_transfer h hrun hp (transferStep_t5_idle h.legal h.aligned hb (by rw [hc]; rfl) x)
  rw [hc, hlink] at e5
  have h5 := inv_step h e5
  have e6 := step_transfer h5 hrun rfl (transferStep_t6 h5.aligned x)
  have h6 := inv_step h5 e6
  have e7 := step_transfer h6 hrun rfl (transferStep_t7 h6.legal h6.aligned x)
  simp only [hread] at e7
  exact ⟨_, e5, _, e6, _, e7, rfl⟩

end WholeTransfer

/-- PING and DATA receive at most four bytes (R90, R91). -/
theorem inLen_le_four {s : State} {x : Transfer} (h : s.transferOk x = true) :
    x.frame.inLen.toNat ≤ 4 := by
  rcases frame_of_transferOk h with hframe | hframe <;> rw [hframe] <;> decide

/-- Settles O19: T1 to T4, the busy polls by induction on their number, and the last poll, T6 and T7. -/
theorem transferRunsItsSevenSteps : Obligations.TransferRunsItsSevenSteps := by
  intro s x n st r more rest h hrun hp hx hb cw
  obtain ⟨hstart, h4⟩ := stepsTo_transferStarted h hrun hp
  have hanswer : (s.transferStarted x).env.xfers = ⟨0 + n, st, r, more⟩ :: rest := by
    rw [Nat.zero_add]
    exact hx
  have hpolls : stepsTo n (s.transferStarted x) ((s.transferStarted x).busyPolled n) := by
    refine stepsTo_busyPolls h4 hrun rfl rfl (fun b hbound => ?_) (hanswer ▸ Nat.le_add_left n 0)
    rw [show (s.transferStarted x).polls + n = n from Nat.zero_add n]
    exact Nat.le_of_lt (hb b hbound)
  have h5 : ((s.transferStarted x).busyPolled n).Inv := inv_busyPolled h4 rfl rfl
  rw [State.busyPolled_answer hanswer] at hpolls h5
  have hbelow : boundReached s.cfg (if s.cfg.pollBound.isSome then 0 + n else 0) = false :=
    boundReached_false fun b hbound => by simpa [hbound] using hb b hbound
  have hlen : (cwInLen cw).toNat ≤ 4 := by
    rw [cwInLen_controlWord]
    exact inLen_le_four (transferOk_of_phase h hp)
  have hend := stepsTo_transferEnded h5 hrun rfl rfl hbelow rfl rfl hlen
  have hsteps := stepsTo_trans hstart (stepsTo_trans hpolls hend)
  rw [show 4 + (n + 3) = n + 7 by omega] at hsteps
  simpa only [State.transferEnded, State.transferStarted, Nat.zero_add] using hsteps

/-! ### The poll bound, and a link that never answers -/

/-- A finite bound is reached once the polls are as many (R81, R89). -/
theorem boundReached_true {c : Config} {b n : Nat} (hbound : c.pollBound = some b) (hle : b ≤ n) :
    boundReached c n = true := by
  simp only [boundReached, hbound, hle, decide_true]

/-- The polls up to the bound, and the raise as a step of its own (R81, R89, log 12). -/
theorem stepsTo_linkStall {s : State} {x : Transfer} {m : Nat} (h : s.Inv) (hrun : s.running = true)
    (hp : s.phase = .transfer .t5 x) (hbound : s.cfg.pollBound = some (s.polls + m))
    (hbusy : s.link.busy = true) (hx : staysBusy m s.env.xfers) :
    stepsTo (m + 1) s ((s.busyPolled m).raise (.linkStall s.cfg.channel)) := by
  have hpolls : stepsTo m s (s.busyPolled m) :=
    stepsTo_busyPolls h hrun hp hbusy (fun b hb => by rw [hbound] at hb; cases hb; exact le_rfl) hx
  have hreached : boundReached (s.busyPolled m).cfg (s.busyPolled m).polls = true :=
    boundReached_true hbound (by simp [State.busyPolled, hbound])
  exact stepsTo_snoc hpolls
    (step_transfer (inv_busyPolled h hp hbusy) hrun hp (transferStep_t5_bound hreached x))

/-- Settles O16: at the bound T5 raises, and the polls before it only count up to it. -/
theorem pollBoundRaisesLinkStall : Obligations.PollBoundRaisesLinkStall := by
  refine ⟨fun i s x x0 b hi hp hbound hle => ?raise, fun s x m h hrun hp hbound hbusy =>
    ⟨fun hx => ?noAnswer, fun n st r more rest hx => ?answer⟩⟩
  case raise => rw [exec_command_transfer hi hp, transferStep_t5_bound (boundReached_true hbound hle)]
  case noAnswer =>
    have hsteps := stepsTo_linkStall h hrun hp hbound hbusy (by rw [hx]; trivial)
    rw [State.busyPolled_noAnswer hx, hbound] at hsteps
    exact hsteps
  case answer =>
    have hsteps := stepsTo_linkStall h hrun hp hbound hbusy (by rw [hx]; exact Nat.le_add_left m n)
    rw [State.busyPolled_answer hx, hbound] at hsteps
    exact hsteps

/-- Settles O20: with no bound no count is reached, and with no answer to come the controller stays busy. -/
theorem stalledLinkPollsForever : Obligations.StalledLinkPollsForever := by
  intro s x h hrun hp hnone hbusy hx k
  have hsteps : stepsTo k s (s.busyPolled k) :=
    stepsTo_busyPolls h hrun hp hbusy (by simp [hnone]) (by rw [hx]; trivial)
  rwa [State.busyPolled_noAnswer hx, hnone] at hsteps

/-! ### The error bits of the channel -/

/-- R8: no bit is an error bit of two channels; each pair of channels is one of the six constraints, or its
mirror image. -/
theorem errMask_disjoint {c : Config} (hl : c.legal = true) {d e : BitVec 2} (hne : d ≠ e) :
    c.errMask d &&& c.errMask e = 0 := by
  simp only [Config.legal, Bool.and_eq_true, beq_iff_eq] at hl
  obtain ⟨⟨⟨⟨⟨⟨⟨⟨-, h01⟩, h02⟩, h03⟩, h12⟩, h13⟩, h23⟩, -⟩, -⟩ := hl
  have channels : ∀ d : BitVec 2, d = 0 ∨ d = 1 ∨ d = 2 ∨ d = 3 := by decide
  rcases channels d with rfl | rfl | rfl | rfl <;> rcases channels e with rfl | rfl | rfl | rfl <;>
    simp_all [Config.errMask, BitVec.and_comm]

/-- Clearing the bits of a mask leaves the bits of a disjoint mask. -/
theorem and_not_and_of_disjoint {m e : Word} (h : m &&& e = 0) (v : Word) :
    v &&& ~~~m &&& e = v &&& e := by
  ext k hk
  have hbit : (m[k] && e[k]) = false := by simpa using congrArg (·[k]) h
  cases he : e[k] <;> simp_all

/-- Settles O11: the step is T1's; no bit is both in a mask and in its complement, and the masks of two channels
are disjoint. -/
theorem commandClearsItsChannelsErrors : Obligations.CommandClearsItsChannelsErrors := by
  intro i s x x0 hi hp
  refine ⟨?step, ?own, fun hl d hd => ?others⟩
  case step => rw [exec_command_transfer hi hp, transferStep_t1]
  case own => simp [errorsPending, BitVec.and_assoc]
  case others => exact and_not_and_of_disjoint (errMask_disjoint hl hd.symm) s.link.stat

/-! ### T6 and T7 -/

/-- Settles O17: the step is T6's, in both values of `want_status`. -/
theorem statusIsReadOnlyWhereWanted : Obligations.StatusIsReadOnlyWhereWanted := by
  intro i s x x0 hi hp ha
  have hwant : (x.forCommand x0).wantStatus = x0.wantStatus := rfl
  rw [exec_command_transfer hi hp, transferStep_t6 ha, hwant]
  exact ⟨fun hw => by rw [hw]; rfl, fun hw => by rw [hw]; rfl⟩

/-- Settles O18: the step is T7's, and a command in progress has the return label of its transfer. -/
theorem responseIsReadAndTheTransferReturns : Obligations.ResponseIsReadAndTheTransferReturns := by
  intro i s x x0 hi hp hl ha
  rw [exec_command_transfer hi hp, transferStep_t7 hl ha]
  rfl

/-! ### The two steps of `configure_transfer` -/

/-- Settles O21: at every label but T4 `configure_transfer` is the sentinel write, which is T3's step. -/
theorem configureWritesTheSentinelFirst : Obligations.ConfigureWritesTheSentinelFirst := by
  intro i s c n o hi ha hp
  rw [exec_control hi, configureTransfer_notT4 c n o hp]
  exact transferStep_t3 ha _ _

/-- Settles O23: the sentinel write leads to T4, where the control word follows. -/
theorem configureTransferTakesTwoSteps : Obligations.ConfigureTransferTakesTwoSteps :=
  fun i s c n o hi hn ho ha hp =>
    ⟨_, _, configureWritesTheSentinelFirst i s c n o hi ha hp,
      (configureWritesTheControlWordAndStarts i _ c n o _ _ hi rfl).1 hn ho ha, rfl⟩

/-! ### No control word while the controller is busy -/

/-- Only T5 polls. -/
theorem isPolling_eq_false {p : Phase} (h : ∀ x, p ≠ .transfer .t5 x) : p.isPolling = false := by
  unfold Phase.isPolling
  split
  · rename_i x
    exact absurd rfl (h x)
  all_goals rfl

section BusyOnlyPolling
variable {s t : State}

theorem busyOnlyPolling_of_idle (h : s.link.busy = false) : s.busyOnlyPolling = true := by
  simp [State.busyOnlyPolling, h]

theorem busyOnlyPolling_of_polling (h : s.phase.isPolling = true) : s.busyOnlyPolling = true := by
  simp [State.busyOnlyPolling, h]

theorem idle_of_notPolling (h : s.busyOnlyPolling = true) (hp : s.phase.isPolling = false) :
    s.link.busy = false := by
  simpa [State.busyOnlyPolling, hp] using h

/-- A control-word write is followed by the polls (R80, R81). -/
theorem controlWriteStep_busyOnlyPolling {cw : Word} {x : Transfer} (hs : s.busyOnlyPolling = true)
    (h : controlWriteStep cw x s = .next t) : t.busyOnlyPolling = true := by
  unfold controlWriteStep at h
  split at h
  · cases h
  · obtain ⟨f, rfl⟩ | ⟨u, hu, rfl⟩ := finish_map_cases h
    · exact hs
    · exact busyOnlyPolling_of_polling rfl

/-- A sentinel write leaves the busy bit (R79). -/
theorem sentinelStep_busy {cw : Word} {x : Transfer} (h : sentinelStep cw x s = .next t) :
    t.link.busy = s.link.busy := by
  obtain ⟨f, rfl⟩ | ⟨u, hu, rfl⟩ := finish_map_cases h
  · rfl
  · rw [portWrite_state hu]
    rfl

/-- With a legal configuration a poll reads the controller's busy bit (R69, R83). -/
theorem pollBusy_busy {b : Bool} (hl : s.cfg.legal = true) (h : pollBusy s = .ok (b, t)) :
    t.link.busy = b := by
  have hcfg : (controllerPoll s).cfg = s.cfg := (controllerPoll_keepsSession s).cfg
  unfold pollBusy at h
  split at h <;> cases h
  exact (readsBusy_eq (by rw [hcfg]; exact hl) _).symm

/-- A poll that reads busy stays at T5; one that reads idle finds the controller idle (R81). -/
theorem pollStep_busyOnlyPolling {x : Transfer} (hl : s.cfg.legal = true) (hs : s.busyOnlyPolling = true)
    (h : pollStep x s = .next t) : t.busyOnlyPolling = true := by
  unfold pollStep at h
  split at h
  · cases h
    exact hs
  · obtain ⟨f, rfl⟩ | ⟨⟨b, u⟩, hu, rfl⟩ := finish_map_cases h
    · exact hs
    · cases b with
      | true =>
        refine busyOnlyPolling_of_polling ?_
        simp only [if_true, countPoll_eq]
        rfl
      | false =>
        have hidle : u.link.busy = false := pollBusy_busy hl hu
        exact busyOnlyPolling_of_idle hidle

/-- A label other than T4 and T5 leaves the busy bit (R82, R84 to R86). -/
theorem transferStep_busy {l : TransferLabel} {x : Transfer} (h4 : ∀ cw, l ≠ .t4 cw) (h5 : l ≠ .t5)
    (h : transferStep l x s = .next t) : t.link.busy = s.link.busy := by
  cases l with
  | t1 =>
    cases h
    rfl
  | t2 =>
    obtain ⟨f, rfl⟩ | ⟨u, hu, rfl⟩ := finish_map_cases h
    · rfl
    · rw [bufWrite_state hu]
      rfl
  | t3 cw => exact sentinelStep_busy h
  | t4 cw => exact absurd rfl (h4 cw)
  | t5 => exact absurd rfl h5
  | t6 =>
    replace h : statusStep x s = .next t := h
    unfold statusStep at h
    split at h
    · obtain ⟨f, rfl⟩ | ⟨⟨v, u⟩, hu, rfl⟩ := finish_map_cases h
      · rfl
      · rw [statRead_state hu]
        rfl
    · cases h
      rfl
  | t7 =>
    obtain ⟨f, rfl⟩ | ⟨⟨v, u⟩, hu, rfl⟩ := finish_map_cases h
    · rfl
    · rw [bufRead_state hu]
      rfl

theorem transferStep_busyOnlyPolling {l : TransferLabel} {x x' : Transfer} (hl : s.cfg.legal = true)
    (hs : s.busyOnlyPolling = true) (hp : s.phase = .transfer l x') (h : transferStep l x s = .next t) :
    t.busyOnlyPolling = true := by
  cases l with
  | t4 cw => exact controlWriteStep_busyOnlyPolling hs h
  | t5 => exact pollStep_busyOnlyPolling hl hs h
  | t1 | t2 | t3 | t6 | t7 =>
    refine busyOnlyPolling_of_idle ?_
    rw [transferStep_busy (by simp) (by simp) h]
    exact idle_of_notPolling hs (by rw [hp]; rfl)

/-- A command keeps the controller idle outside the polls: its T4 leads to them, and its T5 leaves them only
when the controller is idle (R87). -/
theorem commandStep_busyOnlyPolling {x0 : Transfer} (hl : s.cfg.legal = true)
    (hs : s.busyOnlyPolling = true) (h : commandStep x0 s = .next t) : t.busyOnlyPolling = true := by
  by_cases hp : ∃ l x, s.phase = .transfer l x
  · obtain ⟨l, x, hp⟩ := hp
    simp only [commandStep, hp] at h
    exact transferStep_busyOnlyPolling hl hs hp h
  · rw [commandStep_enters (fun l x hlx => hp ⟨l, x, hlx⟩)] at h
    cases h
    have hidle : s.link.busy = false :=
      idle_of_notPolling hs (isPolling_eq_false fun x hx => hp ⟨.t5, x, hx⟩)
    exact busyOnlyPolling_of_idle hidle

/-- A control word that is not issued at T5 keeps the controller idle outside the polls (R78). -/
theorem configureTransfer_busyOnlyPolling {c : BitVec 2} {n o : BitVec 7} (hs : s.busyOnlyPolling = true)
    (hp : s.phase.isPolling = false) (h : configureTransfer c n o s = .next t) :
    t.busyOnlyPolling = true := by
  unfold configureTransfer at h
  split at h
  · exact controlWriteStep_busyOnlyPolling hs h
  · exact busyOnlyPolling_of_idle (by rw [sentinelStep_busy h, idle_of_notPolling hs hp])

/-- No control word is issued at T5: the bytes there are the frame's command byte (R81, R87). -/
theorem notPolling_of_controlWord {i : Instr} {c : BitVec 2} {n o : BitVec 7} {bs : List Byte}
    (hi : i.controlFields = some (c, n, o)) (hf : fetch s.phase = some bs) (hd : decode bs = .ok i) :
    s.phase.isPolling = false := by
  refine isPolling_eq_false fun x hp => ?_
  have hcommand : decodeCommand x.frame.cmd = .ok i := by
    rw [hp] at hf
    cases hf
    exact hd
  unfold decodeCommand at hcommand
  split_ifs at hcommand <;> cases hcommand <;> cases hi

/-- Every row of the table is a command or a control word. -/
theorem command_or_controlWord (i : Instr) (st : ProtoState) :
    (∃ x0, commandOperands i st = some x0) ∨ ∃ c n o, i.controlFields = some (c, n, o) := by
  cases i with
  | ping | data => exact .inl ⟨_, rfl⟩
  | controlWord | cwPingCh0 | cwPingCh1 | cwPingCh2 | cwPingCh3
  | cwDataCh0 | cwDataCh1 | cwDataCh2 | cwDataCh3 => exact .inr ⟨_, _, _, rfl⟩

/-- No label of the sequencer writes the link controller (R35). -/
theorem sequencerStep_link (h : sequencerStep s = .next t) : t.link = s.link := by
  unfold sequencerStep at h
  cases hp : s.phase <;> simp only [hp] at h
  case k0 => obtain ⟨_, rfl⟩ | ⟨_, _, _, rfl⟩ := waitTick_cases h <;> rfl
  case k1 => obtain ⟨_, rfl⟩ | ⟨_, rfl⟩ := pollInputStep_cases h <;> rfl
  case k2 => obtain ⟨_, rfl⟩ | ⟨_, _, rfl⟩ | ⟨_, _, rfl⟩ := eventsStep_cases h <;> rfl
  case k3 =>
    obtain ⟨_, rfl⟩ | ⟨_, rfl⟩ | ⟨_, rfl⟩ | ⟨_, rfl⟩ := dispatchStep_cases h <;> rfl
  case i2 => obtain ⟨_, rfl⟩ | ⟨_, _, rfl⟩ | ⟨_, _, rfl⟩ := identifyStep_cases h <;> rfl
  case n1 =>
    obtain ⟨_, hr⟩ | ⟨_, rfl⟩ := errorTestStep_cases h
    · obtain ⟨p, _, rfl⟩ := reject_cases hr
      rfl
    · rfl
  case n3 =>
    obtain ⟨_, rfl⟩ | ⟨_, hr⟩ := lengthTestStep_cases h
    · rfl
    · obtain ⟨p, _, rfl⟩ := reject_cases hr
      rfl
  case c1 => obtain ⟨_, rfl⟩ | ⟨_, rfl⟩ := loopTestStep_cases h <;> rfl
  case c3 => obtain ⟨_, rfl⟩ | ⟨_, rfl⟩ := storeStep_cases h <;> rfl
  case c5 => obtain ⟨_, rfl⟩ | ⟨_, rfl⟩ := delayStep_cases h <;> rfl
  case c6 => obtain ⟨_, _, rfl⟩ | ⟨_, _, _, _, rfl⟩ | ⟨_, rfl⟩ := persistStep_cases h <;> rfl
  all_goals
    cases h
    rfl

/-- At T5 an instruction is issued, so the sequencer does not poll (R87). -/
theorem notPolling_of_sequencer (hf : fetch s.phase = none) : s.phase.isPolling = false := by
  refine isPolling_eq_false fun x hp => ?_
  rw [hp] at hf
  cases hf

/-- The step at a phase keeps the controller idle outside the polls. -/
theorem runPhase_busyOnlyPolling (hl : s.cfg.legal = true) (hs : s.busyOnlyPolling = true)
    (h : runPhase s = .next t) : t.busyOnlyPolling = true := by
  obtain ⟨bs, i, hf, hd, he⟩ | ⟨hf, hseq⟩ := runPhase_cases h
  · obtain ⟨x0, hi⟩ | ⟨c, n, o, hi⟩ := command_or_controlWord i s.state
    · rw [exec_command hi] at he
      exact commandStep_busyOnlyPolling hl hs he
    · rw [exec_control hi] at he
      exact configureTransfer_busyOnlyPolling hs (notPolling_of_controlWord hi hf hd) he
  · refine busyOnlyPolling_of_idle ?_
    rw [sequencerStep_link hseq]
    exact idle_of_notPolling hs (notPolling_of_sequencer hf)

theorem busyOnlyPolling_hostInput (s : State) :
    (hostInput s).2.busyOnlyPolling = s.busyOnlyPolling := by
  rw [hostInput_state]
  rfl

end BusyOnlyPolling

/-- Settles O56: the host's input and a fault move neither the busy bit nor the phase, and the step at a phase
keeps the property; T4 is no poll. -/
theorem noControlWordWhileBusy : Obligations.NoControlWordWhileBusy := by
  refine ⟨fun s t hs hr e => ?step, fun s cw x hs hp => idle_of_notPolling hs (by rw [hp]; rfl)⟩
  rw [← busyOnlyPolling_hostInput] at hs
  obtain ⟨r, hsome, _⟩ | ⟨_, hl, _, ⟨_, rfl⟩ | ⟨_, hg⟩⟩ := step_cases e
  · simp [State.noRestart, hsome] at hr
  · exact hs
  · obtain ⟨hrun, _⟩ | ⟨_, _, _, _, rfl⟩ := guardInvariant_cases hg
    · exact runPhase_busyOnlyPolling hl hs hrun
    · exact hs

end Sys2Proof.Machine
end

section
/-!
PROOFS. The statements of 41_protocol_codec.md: the byte-order correctors and the fields of the responses.
Every word is four bytes, and each corrector is a rearrangement of them: that is said first, and the laws
follow.
-/

namespace Sys2Proof.Machine

/-! ### A word as its four bytes -/

theorem exists_wordOfBytes (w : Word) : ∃ b3 b2 b1 b0, w = wordOfBytes b3 b2 b1 b0 :=
  ⟨_, _, _, _, (wordOfBytes_bytes w).symm⟩

/-- The bytes of four bytes put together are those four. -/
theorem byteOfWord_wordOfBytes (b3 b2 b1 b0 : Byte) :
    byteOfWord (wordOfBytes b3 b2 b1 b0) 0 = b3 ∧ byteOfWord (wordOfBytes b3 b2 b1 b0) 1 = b2 ∧
    byteOfWord (wordOfBytes b3 b2 b1 b0) 2 = b1 ∧ byteOfWord (wordOfBytes b3 b2 b1 b0) 3 = b0 := by
  simpa [bytesOfWord] using bytesOfWord_wordOfBytes b3 b2 b1 b0

/-- Four bytes put together are two halves put together. -/
theorem wordOfBytes_eq_halves (b3 b2 b1 b0 : Byte) :
    wordOfBytes b3 b2 b1 b0 = (b3 ++ b2 : Half) ++ (b1 ++ b0 : Half) :=
  BitVec.append_assoc

/-- The upper half followed by the lower half is the word. -/
theorem halves_append (w : Word) : w.extractLsb' 16 16 ++ w.extractLsb' 0 16 = w :=
  (BitVec.extractLsb'_append_extractLsb'_eq_extractLsb' rfl).trans BitVec.extractLsb'_eq_self

/-! ### What the correctors do to the bytes and the halves -/

/-- R93: the four bytes in the opposite order. -/
@[simp] theorem reverseBytes_wordOfBytes (b3 b2 b1 b0 : Byte) :
    reverseBytes (wordOfBytes b3 b2 b1 b0) = wordOfBytes b0 b1 b2 b3 := by
  obtain ⟨h3, h2, h1, h0⟩ := byteOfWord_wordOfBytes b3 b2 b1 b0
  calc reverseBytes (wordOfBytes b3 b2 b1 b0)
      = wordOfBytes (byteOfWord (wordOfBytes b3 b2 b1 b0) 3) (byteOfWord (wordOfBytes b3 b2 b1 b0) 2)
          (byteOfWord (wordOfBytes b3 b2 b1 b0) 1) (byteOfWord (wordOfBytes b3 b2 b1 b0) 0) := rfl
    _ = wordOfBytes b0 b1 b2 b3 := by rw [h3, h2, h1, h0]

/-- R95: the two bytes of each half exchanged. -/
@[simp] theorem bswap16x2_wordOfBytes (b3 b2 b1 b0 : Byte) :
    bswap16x2 (wordOfBytes b3 b2 b1 b0) = wordOfBytes b2 b3 b0 b1 := by
  obtain ⟨h3, h2, h1, h0⟩ := byteOfWord_wordOfBytes b3 b2 b1 b0
  calc bswap16x2 (wordOfBytes b3 b2 b1 b0)
      = wordOfBytes (byteOfWord (wordOfBytes b3 b2 b1 b0) 1) (byteOfWord (wordOfBytes b3 b2 b1 b0) 0)
          (byteOfWord (wordOfBytes b3 b2 b1 b0) 3) (byteOfWord (wordOfBytes b3 b2 b1 b0) 2) := rfl
    _ = wordOfBytes b2 b3 b0 b1 := by rw [h3, h2, h1, h0]

/-- R94: the two halves exchanged. -/
@[simp] theorem swapHalfWords_append (hi lo : Half) : swapHalfWords (hi ++ lo) = lo ++ hi := by
  rw [swapHalfWords, BitVec.extractLsb'_append_eq_left, BitVec.extractLsb'_append_eq_right]

/-- R94: the two halves exchanged, each with its bytes in their order. -/
@[simp] theorem swapHalfWords_wordOfBytes (b3 b2 b1 b0 : Byte) :
    swapHalfWords (wordOfBytes b3 b2 b1 b0) = wordOfBytes b1 b0 b3 b2 := by
  rw [wordOfBytes_eq_halves, swapHalfWords_append, wordOfBytes_eq_halves]

/-- Byte 0 is the most significant: the bytes of R93 by their places. -/
theorem byteOfWord_reverseBytes (w : Word) :
    byteOfWord (reverseBytes w) 0 = byteOfWord w 3 ∧ byteOfWord (reverseBytes w) 1 = byteOfWord w 2 ∧
    byteOfWord (reverseBytes w) 2 = byteOfWord w 1 ∧ byteOfWord (reverseBytes w) 3 = byteOfWord w 0 :=
  byteOfWord_wordOfBytes (byteOfWord w 3) (byteOfWord w 2) (byteOfWord w 1) (byteOfWord w 0)

theorem upperHalf_swapHalfWords (w : Word) :
    (swapHalfWords w).extractLsb' 16 16 = w.extractLsb' 0 16 := BitVec.extractLsb'_append_eq_left

theorem lowerHalf_swapHalfWords (w : Word) :
    (swapHalfWords w).extractLsb' 0 16 = w.extractLsb' 16 16 := BitVec.extractLsb'_append_eq_right

/-- R94: a word whose halves are equal is left as it is. -/
theorem swapHalfWords_of_equalHalves {w : Word} (h : w.extractLsb' 0 16 = w.extractLsb' 16 16) :
    swapHalfWords w = w := by
  calc swapHalfWords w
      = w.extractLsb' 0 16 ++ w.extractLsb' 16 16 := rfl
    _ = w.extractLsb' 16 16 ++ w.extractLsb' 0 16 := by rw [h]
    _ = w := halves_append w

/-- Settles O7: the places of the bytes and the halves hold of every word; the rules' examples are
computed. -/
theorem correctorsMoveBytesAndHalves : Obligations.CorrectorsMoveBytesAndHalves := by
  refine ⟨fun w => ?places, by decide, by decide, by decide, by decide, by decide, by decide, by decide⟩
  obtain ⟨h0, h1, h2, h3⟩ := byteOfWord_reverseBytes w
  exact ⟨h0, h1, h2, h3, upperHalf_swapHalfWords w, lowerHalf_swapHalfWords w,
    swapHalfWords_of_equalHalves⟩

/-! ### The laws of the correctors (R95) -/

theorem reverseBytes_involutive : Function.Involutive reverseBytes := by
  intro w
  obtain ⟨b3, b2, b1, b0, rfl⟩ := exists_wordOfBytes w
  rw [reverseBytes_wordOfBytes, reverseBytes_wordOfBytes]

theorem swapHalfWords_involutive : Function.Involutive swapHalfWords :=
  fun w => (swapHalfWords_append _ _).trans (halves_append w)

theorem reverseBytes_eq_swapHalfWords_bswap16x2 (w : Word) :
    reverseBytes w = swapHalfWords (bswap16x2 w) := by
  obtain ⟨b3, b2, b1, b0, rfl⟩ := exists_wordOfBytes w
  rw [reverseBytes_wordOfBytes, bswap16x2_wordOfBytes, swapHalfWords_wordOfBytes]

theorem reverseBytes_swapHalfWords_comm (w : Word) :
    reverseBytes (swapHalfWords w) = swapHalfWords (reverseBytes w) := by
  obtain ⟨b3, b2, b1, b0, rfl⟩ := exists_wordOfBytes w
  simp only [reverseBytes_wordOfBytes, swapHalfWords_wordOfBytes]

/-- Settles O8: both sides of each law rearrange the four bytes alike, and an involution is a bijection. -/
theorem correctorsAreCommutingInvolutions : Obligations.CorrectorsAreCommutingInvolutions :=
  ⟨reverseBytes_involutive, swapHalfWords_involutive, reverseBytes_eq_swapHalfWords_bswap16x2,
    reverseBytes_swapHalfWords_comm, reverseBytes_involutive.bijective, swapHalfWords_involutive.bijective⟩

/-! ### The fields of the responses (R96 to R100) -/

/-- R99: the identification is the upper half of the response (D8). -/
theorem toNat_ident (w : Word) : (ident w).toNat = w.toNat / 65536 := by
  have hquot : w.toNat / 65536 < 65536 := by omega
  rw [ident, BitVec.extractLsb'_toNat, Nat.shiftRight_eq_div_pow]
  exact Nat.mod_eq_of_lt hquot

/-- R97: a W16 sample is the same half as the identification, zero-extended (D19). -/
theorem sample16_eq_ident (w : Word) : sample16 w = (ident w).zeroExtend 32 := by
  rw [sample16, lowerHalf_swapHalfWords, ident]

theorem toNat_sample16 (w : Word) : (sample16 w).toNat = w.toNat / 65536 := by
  rw [sample16_eq_ident, BitVec.toNat_setWidth_of_le (by decide), toNat_ident]

/-- R100: the accepted lengths, unsigned (D18). -/
theorem lengthOk_iff (len : Word) : lengthOk len = true ↔ 0 < len.toNat ∧ len.toNat ≤ 512 := by
  simp only [lengthOk, Config.lenMax, Bool.and_eq_true, decide_eq_true_eq]

/-- Settles O9: field by field; the W32 sample and the length are their definitions. -/
theorem responseFieldsAreExtracted : Obligations.ResponseFieldsAreExtracted :=
  fun w => ⟨toNat_ident w, toNat_sample16 w, rfl, rfl, lengthOk_iff w⟩

end Sys2Proof.Machine
end

section
/-!
PROOFS. The statements of 42_capture_fsm.md: the tick, the three handlers, a whole capture session, and what a
step can do to `state` and to the width registers. What the step at each label of the sequencer is comes first.
-/

namespace Sys2Proof.Machine

/-! ### The step at each label of the sequencer -/

section SequencerLabels
variable {s : State}

/-- At a label that issues no instruction the step is the sequencer's own for that label. -/
theorem runPhase_sequencer {p : Phase} {f : State → Result} (h : s.phase = p) (hf : fetch p = none)
    (hstep : ∀ t : State, sequencerStep (t.goto p) = f (t.goto p)) : runPhase s = f s := by
  subst h
  exact (runPhase_none hf).trans (hstep s)

theorem runPhase_k0 (h : s.phase = .k0) : runPhase s = waitTick s :=
  runPhase_sequencer h rfl fun _ => rfl

theorem runPhase_k1 (h : s.phase = .k1) : runPhase s = pollInputStep s :=
  runPhase_sequencer h rfl fun _ => rfl

theorem runPhase_k2 {ev : Events} (h : s.phase = .k2 ev) : runPhase s = eventsStep ev s :=
  runPhase_sequencer h rfl fun _ => rfl

theorem runPhase_k3 (h : s.phase = .k3) : runPhase s = dispatchStep s :=
  runPhase_sequencer h rfl fun _ => rfl

theorem runPhase_i1 (h : s.phase = .i1) : runPhase s = identStep s :=
  runPhase_sequencer h rfl fun _ => rfl

theorem runPhase_i2 {id : Half} (h : s.phase = .i2 id) : runPhase s = identifyStep id s :=
  runPhase_sequencer h rfl fun _ => rfl

theorem runPhase_n1 (h : s.phase = .n1) : runPhase s = errorTestStep s :=
  runPhase_sequencer h rfl fun _ => rfl

theorem runPhase_n2 (h : s.phase = .n2) : runPhase s = decodeLengthStep s :=
  runPhase_sequencer h rfl fun _ => rfl

theorem runPhase_n3 {len : Word} (h : s.phase = .n3 len) : runPhase s = lengthTestStep len s :=
  runPhase_sequencer h rfl fun _ => rfl

theorem runPhase_c0 (h : s.phase = .c0) : runPhase s = latchWidthStep s :=
  runPhase_sequencer h rfl fun _ => rfl

theorem runPhase_c1 (h : s.phase = .c1) : runPhase s = loopTestStep s :=
  runPhase_sequencer h rfl fun _ => rfl

theorem runPhase_c3 (h : s.phase = .c3) : runPhase s = storeStep s :=
  runPhase_sequencer h rfl fun _ => rfl

theorem runPhase_c4 (h : s.phase = .c4) : runPhase s = countStep s :=
  runPhase_sequencer h rfl fun _ => rfl

theorem runPhase_c5 (h : s.phase = .c5) : runPhase s = delayStep s :=
  runPhase_sequencer h rfl fun _ => rfl

theorem runPhase_c6 (h : s.phase = .c6) : runPhase s = persistStep s :=
  runPhase_sequencer h rfl fun _ => rfl

theorem runPhase_c7 (h : s.phase = .c7) : runPhase s = countResetStep s :=
  runPhase_sequencer h rfl fun _ => rfl

theorem runPhase_c7State (h : s.phase = .c7State) : runPhase s = sessionEndStep s :=
  runPhase_sequencer h rfl fun _ => rfl

end SequencerLabels

/-! ### The tick -/

/-- Settles O27, by whether a tick is queued. -/
theorem tickIsAwaitedAndEventsLatch : Obligations.TickIsAwaitedAndEventsLatch := by
  intro s hp
  rw [runPhase_k0 hp, waitTick]
  refine ⟨fun hticks => ?held, fun g rest hticks => ?granted⟩
  case held => rw [hticks]
  case granted =>
    rw [hticks]
    rfl

/-- K1 of a tick in Idle or Negotiating (R103). -/
theorem pollInputStep_polled {s : State} (hs : s.state = .idle ∨ s.state = .negotiating) :
    pollInputStep s = .next ((pollInput s).2.goto (.k2 (pollInput s).1)) := by
  rcases hs with hs | hs <;> simp only [pollInputStep, hs]

/-- K1 of another tick (R106). -/
theorem pollInputStep_kept {s : State} (hs : s.state = .capturing ∨ s.state = .illegal3) :
    pollInputStep s = .next (s.goto (.k2 { exit := false, toggle := false })) := by
  rcases hs with hs | hs <;> simp only [pollInputStep, hs]

/-- Settles O28: the poll of a tick is the one of its `state`. -/
theorem pollConsumesLatchesOutsideCaptures : Obligations.PollConsumesLatchesOutsideCaptures :=
  fun _ hp => ⟨fun hs => (runPhase_k1 hp).trans (pollInputStep_polled hs),
    fun hs => (runPhase_k1 hp).trans (pollInputStep_kept hs)⟩

/-- Settles O29: the test of RequestExit stands before the test of ToggleWidth. -/
theorem exitWinsOverToggle : Obligations.ExitWinsOverToggle := by
  refine ⟨fun s ev hp => ?events, fun s w hp => runPhase_emit hp⟩
  rw [runPhase_k2 hp, eventsStep]
  refine ⟨fun hexit => ?exit, fun hexit htoggle => ?toggle, fun hexit htoggle => ?quiet⟩
  case exit =>
    rw [if_pos hexit]
    rfl
  case toggle => rw [hexit, htoggle]; rfl
  case quiet => rw [hexit, htoggle]; rfl

/-- K3 at each value of `state` (R101, R141). -/
theorem dispatchStep_of_state {s : State} :
    (s.state = .idle → dispatchStep s = .next (s.goto .i0)) ∧
    (s.state = .negotiating → dispatchStep s = .next (s.goto .n0)) ∧
    (s.state = .capturing → dispatchStep s = .next (s.goto .c0)) ∧
    (s.state = .illegal3 → dispatchStep s = .next (s.raise (.illegalState 3))) := by
  refine ⟨fun hs => ?_, fun hs => ?_, fun hs => ?_, fun hs => ?_⟩ <;> simp only [dispatchStep, hs]
  rfl

/-- Settles O30, by the four values of `state`. -/
theorem eachStateHasItsHandler : Obligations.EachStateHasItsHandler := by
  intro s hp
  rw [runPhase_k3 hp]
  exact dispatchStep_of_state

/-! ### The Idle handler -/

/-- R8: HANDHELD_ID is not 0, so that 0 names no device (R108). -/
theorem Config.handheldId_ne {c : Config} (h : c.legal = true) : c.handheldId ≠ 0 := by
  simp only [Config.legal, Bool.and_eq_true, and_assoc, bne_iff_ne] at h
  exact h.1

/-- Settles O31, by the identification. -/
theorem identificationMovesOrReports : Obligations.IdentificationMovesOrReports := by
  refine ⟨fun s id hp => ?identify, fun s id => ⟨fun hp => runPhase_emit hp, fun hp => runPhase_emit hp⟩⟩
  rw [runPhase_i2 hp, identifyStep]
  refine ⟨fun hid => ?handheld, fun hid hne => ?other⟩
  case handheld => rw [if_pos hid]
  case other =>
    rw [if_neg hid, if_pos hne]
    rfl

/-- Settles O32: with a legal configuration 0 is not HANDHELD_ID. -/
theorem zeroIdentificationIsSilent : Obligations.ZeroIdentificationIsSilent := by
  refine ⟨fun s hp => runPhase_i1 hp, fun s hp hl => ?_⟩
  rw [runPhase_i2 hp, identifyStep, if_neg (Config.handheldId_ne hl).symm, if_neg (by simp)]
  rfl

/-! ### The Negotiating handler -/

/-- A rejection goes to K0 or to its record, as the free value has it (R115, log 5). -/
theorem reject_phase (cause : RejectCause) (s : State) :
    ∃ p, (p = .k0 ∨ p = .emit (.negRejected cause)) ∧
      reject cause s = .next { s with freeDraws := s.freeDraws + 1, phase := p } := by
  refine ⟨_, ?_, reject_eq cause s⟩
  cases Config.negRejectedLogged s.freeDraws with
  | false => exact .inl rfl
  | true => exact .inr rfl

/-- R112: error bits are pending where a bit of the channel's mask is set, and on no other bits. -/
theorem errorsPending_iff (c : Config) (stat : Word) :
    errorsPending c stat = true ↔ stat &&& c.errMask c.channel ≠ 0 := by
  simp [errorsPending]

/-- Settles O33: the error test reads the channel's bits only, and a rejection decodes nothing. -/
theorem ownErrorBitsRejectFirst : Obligations.OwnErrorBitsRejectFirst := by
  refine ⟨fun s hp => ⟨fun herr => ?errors, fun hnone => ?none⟩, fun s cause hp => runPhase_emit hp,
    fun c a b hab => ?own⟩
  case errors =>
    rw [runPhase_n1 hp, errorTestStep, if_pos ((errorsPending_iff _ _).mpr herr)]
    exact reject_phase .errorBits s
  case none => exact runPhase_n1_noErrors hp (by simp [errorsPending, hnone])
  case own => rw [errorsPending, errorsPending, hab]

/-- R138: the cause of a bad length, by its value. -/
theorem lengthCause_eq (len : Word) :
    lengthCause len = if len.toNat = 0 then .lengthZero else .lengthTooLarge := by
  simp only [lengthCause, ← BitVec.toNat_inj]
  rfl

/-- Settles O34: the length test accepts 1 to 512 and nothing else. -/
theorem badLengthIsRejectedWithItsCause : Obligations.BadLengthIsRejectedWithItsCause := by
  refine ⟨fun s hp => runPhase_n2 hp, fun s len hp => ⟨fun hbad => ?rejected, fun hpos hmax => ?accepted⟩⟩
  case rejected =>
    have hlen : ¬ lengthOk len = true := by
      rw [lengthOk_iff]
      omega
    rw [runPhase_n3 hp, lengthTestStep, if_neg hlen, lengthCause_eq]
    exact reject_phase _ s
  case accepted => exact runPhase_n3_accepted hp ((lengthOk_iff len).mpr ⟨hpos, hmax⟩)

/-! ### The capture loop's labels -/

section CaptureLabels
variable {s : State}

/-- C3 below the capacity: the sample of the latched width is stored at the count (R118). -/
theorem storeStep_stored (hcap : s.capturedCount.toNat < Config.capMax) :
    storeStep s = .next { s with
      cbuf := s.cbuf.writeWord s.capturedCount.toNat (sampleOf s.capWidth s.tResp)
      trace := .cb s.capturedCount.toNat (sampleOf s.capWidth s.tResp) :: s.trace
      phase := .c4 } := by
  rw [storeStep, memWrite_ok hcap]
  rfl

/-- C3 at the capacity or above (R48). -/
theorem storeStep_full (hcap : Config.capMax ≤ s.capturedCount.toNat) :
    storeStep s = .next (s.raise (.capacityExceeded s.capturedCount.toNat)) := by
  rw [storeStep, memWrite_error hcap]
  rfl

/-- C1 with a sample still to capture (R117). -/
theorem loopTestStep_more (h : s.capturedCount.toNat < s.targetLength.toNat) :
    loopTestStep s = .next (s.goto .c2) := if_pos h

/-- C1 with the capture complete (R117). -/
theorem loopTestStep_complete (h : s.targetLength.toNat ≤ s.capturedCount.toNat) :
    loopTestStep s = .next (s.goto .c6) := if_neg (Nat.not_lt.mpr h)

/-- C5 with no reading to come (R73, log 20). -/
theorem delayStep_noReading (h : s.env.timer = []) :
    delayStep s = .next { s with trace := .delay 1 :: s.trace, phase := .c1 } := by
  have hreading : timerReading s = (Config.delayMs, s.env.timer) := by simp only [timerReading, h]
  simp only [delayStep, hreading, le_refl, if_true]
  rfl

/-- C5 at a reading of at least 1 ms (R120). -/
theorem delayStep_over {ms : Nat} {rest : List Nat} (h : s.env.timer = ms :: rest) (hms : 1 ≤ ms) :
    delayStep s = .next { s with
      env := { s.env with timer := rest }
      trace := .delay 1 :: s.trace
      phase := .c1 } := by
  simp only [delayStep, timerReading, h, Config.delayMs, hms, if_true]
  rfl

/-- C5 at a reading below 1 ms (R120, R162). -/
theorem delayStep_held {ms : Nat} {rest : List Nat} (h : s.env.timer = ms :: rest) (hms : ms < 1) :
    delayStep s = .next { s with env := { s.env with timer := rest } } := by
  simp only [delayStep, timerReading, h, Config.delayMs, Nat.not_le.mpr hms, if_false]

/-- C6 with an answer of the sink (R121, R125). -/
theorem persistStep_answered {opens : Bool} {rest : List Bool} (hlen : s.targetLength.toNat ≤ Config.capMax)
    (h : s.env.sink = opens :: rest) :
    persistStep s = .next { s with
      sink := s.sink.persisted s.cfg opens
        (persistBytes s.cfg.sinkByteOrder s.capWidth s.cbuf s.targetLength.toNat)
      env := { s.env with sink := rest }
      trace := .persist s.targetLength s.capWidth opens :: s.trace
      phase := .emit (persistLog opens s.targetLength) } := by
  simp only [persistStep, hlen, h, if_true]
  rfl

/-- C6 with no answer (R125). -/
theorem persistStep_held (hlen : s.targetLength.toNat ≤ Config.capMax) (h : s.env.sink = []) :
    persistStep s = .next s := by
  simp only [persistStep, hlen, h, if_true]

end CaptureLabels

/-- A count below a target of at most 512 is incremented without wrapping (R119). -/
theorem toNat_count_succ {n m : BitVec 10} (hlt : n.toNat < m.toNat) (hmax : m.toNat ≤ 512) :
    (n + 1).toNat = n.toNat + 1 := by
  bv_omega

/-- Settles O36: at C4 of the invariant a sample is still missing, so the count is below 512 (R21, R32). -/
theorem captureLoopCountsToItsTarget : Obligations.CaptureLoopCountsToItsTarget := by
  refine ⟨fun s hp => runPhase_c0 hp, fun s hp => ?loopTest, fun s hp => ⟨runPhase_c4 hp, fun h => ?increment⟩⟩
  case loopTest =>
    rw [runPhase_c1 hp]
    split
    · exact loopTestStep_more ‹_›
    · exact loopTestStep_complete (Nat.not_lt.mp ‹_›)
  case increment =>
    have hok := h.phase
    simp only [State.phaseOk, hp, Bool.and_eq_true] at hok
    have hlt := moreSamples_iff.mp hok.2
    have hmax := (h.count_le (inLoop_iff.mp hok.1).1).2
    exact ⟨toNat_count_succ hlt hmax, hlt, hmax⟩

/-- C3 below the capacity stores its sample in the entry at the count, and no byte outside it is written. -/
theorem runPhase_c3_stores {s : State} {v : Word} (hp : s.phase = .c3)
    (hv : sampleOf s.capWidth s.tResp = v) (hcap : s.capturedCount.toNat < Config.capMax) :
    ∃ t, runPhase s = .next t ∧
      t = { s with cbuf := t.cbuf, trace := .cb s.capturedCount.toNat v :: s.trace, phase := .c4 } ∧
      (s.cbuf.wf = true → t.cbuf.wf = true ∧ t.entry s.capturedCount.toNat = v ∧
        ∀ a : Nat, a < 4 * s.capturedCount.toNat ∨ 4 * s.capturedCount.toNat + 4 ≤ a →
          t.cbuf.read a = s.cbuf.read a) := by
  subst hv
  refine ⟨_, (runPhase_c3 hp).trans (storeStep_stored hcap), rfl, fun hwf => ?_⟩
  refine ⟨Memory.wf_writeWord _ _ _ hwf, Memory.readWord_writeWord_same _ _ _ hwf, fun a ha => ?_⟩
  rw [Memory.read_writeWord _ _ _ _ hwf]
  repeat rw [if_neg (by omega)]

/-- Settles O37: at W16 the sample is the upper half of the response (D16, D19). -/
theorem sampleIsStoredAtTheCount : Obligations.SampleIsStoredAtTheCount := by
  refine fun s hp => ⟨fun hcap => runPhase_c3_stores hp ?sample hcap,
    fun hcap => (runPhase_c3 hp).trans (storeStep_full hcap)⟩
  cases s.capWidth with
  | w32 => rfl
  | w16 => exact sample16_eq_ident s.tResp

/-- Settles O38, by the timer's reading. -/
theorem delayLastsAtLeastOneMillisecond : Obligations.DelayLastsAtLeastOneMillisecond := by
  intro s hp
  rw [runPhase_c5 hp]
  exact ⟨delayStep_noReading, fun ms rest htimer => ⟨delayStep_over htimer, delayStep_held htimer⟩⟩

/-- Settles O39, label by label. -/
theorem persistThenSessionReset : Obligations.PersistThenSessionReset :=
  ⟨fun _ hp hlen hsink => (runPhase_c6 hp).trans (persistStep_held hlen hsink),
    fun _ _ hp hlen hsink => (runPhase_c6 hp).trans (persistStep_answered hlen hsink),
    fun _ _ hp => runPhase_emit hp, fun _ hp => runPhase_c7 hp, fun _ hp => runPhase_c7State hp⟩

/-! ### Runs of the block alone -/

/-- A running block of the invariant takes the step at its phase, and the invariant holds after it. -/
theorem step_runPhase {s t : State} (h : s.Inv) (hrun : s.running = true) (e : runPhase s = .next t) :
    step s = .next t ∧ t.Inv :=
  ⟨step_eq_runPhase hrun h.legal e (inv_runPhase h e).session, inv_runPhase h e⟩

theorem inv_stepsTo {k : Nat} {s t : State} (h : s.Inv) (hsteps : stepsTo k s t) : t.Inv := by
  induction k generalizing s with
  | zero => exact hsteps ▸ h
  | succ k ih =>
    obtain ⟨u, hu, hut⟩ := hsteps
    exact ih (inv_step h hu) hut

/-- Some number of steps of the machine, all with a next state, lead from `s` to `t`. -/
def State.Reaches (s t : State) : Prop := ∃ k, stepsTo k s t

theorem State.Reaches.refl (s : State) : s.Reaches s := ⟨0, rfl⟩

theorem State.Reaches.trans {s t u : State} (h : s.Reaches t) (h' : t.Reaches u) : s.Reaches u := by
  obtain ⟨j, hj⟩ := h
  obtain ⟨k, hk⟩ := h'
  exact ⟨j + k, stepsTo_trans hj hk⟩

theorem State.Reaches.step {s t u : State} (e : Machine.step s = .next t) (h : t.Reaches u) :
    s.Reaches u := State.Reaches.trans ⟨1, stepsTo_one e⟩ h

theorem State.Reaches.inv {s t : State} (h : s.Inv) (hst : s.Reaches t) : t.Inv := by
  obtain ⟨k, hk⟩ := hst
  exact inv_stepsTo h hk

/-! ### Several words in memory -/

/-- Write words at consecutive entries from `i` on, as a capture does (R118, R119). -/
def Memory.writeWords (m : Memory) (i : Nat) : List Word → Memory
  | [] => m
  | v :: words => (m.writeWord i v).writeWords (i + 1) words

/-- The entries after a write of several: those written in order from `i` on, and every other as before. -/
theorem Memory.readWord_writeWords (words : List Word) (m : Memory) (i j : Nat) (h : m.wf = true) :
    (m.writeWords i words).readWord j =
      if i ≤ j then words[j - i]?.getD (m.readWord j) else m.readWord j := by
  induction words generalizing m i with
  | nil => simp [Memory.writeWords]
  | cons v words ih =>
    rw [Memory.writeWords, ih _ _ (Memory.wf_writeWord m i v h)]
    rcases Nat.lt_trichotomy j i with hlt | rfl | hgt
    · rw [if_neg (by omega), if_neg (by omega), Memory.readWord_writeWord_other m i j v h (by omega)]
    · rw [if_neg (by omega), if_pos le_rfl, Memory.readWord_writeWord_same m j v h, Nat.sub_self]
      rfl
    · rw [if_pos (Nat.succ_le_of_lt hgt), if_pos hgt.le,
        Memory.readWord_writeWord_other m i j v h (by omega),
        show j - i = (j - (i + 1)) + 1 by omega, List.getElem?_cons_succ]

/-- The bytes given to the sink are those of the words in the entries, in order (R126). -/
theorem persistBytes_of_entries (order : ByteOrder) (w : Width) {m : Memory} {words : List Word}
    (h : ∀ j v, words[j]? = some v → m.readWord j = v) :
    persistBytes order w m words.length = words.flatMap (sampleBytes order w) := by
  have hentries : (List.range words.length).map m.readWord = words := by
    refine List.ext_getElem (by simp) fun j hj hj' => ?_
    rw [List.getElem_map, List.getElem_range]
    exact h j _ (List.getElem?_eq_getElem hj')
  calc persistBytes order w m words.length
      = ((List.range words.length).map m.readWord).flatMap (sampleBytes order w) :=
        (List.flatMap_map _ _ _).symm
    _ = words.flatMap (sampleBytes order w) := by rw [hentries]

/-! ### A whole capture session (R117, R121) -/

/-- What the capture loop leaves as it is: all but the loop's registers, those of a transfer, the capture
buffer, the link controller, the trace, and the answers and readings it consumes. -/
def State.LoopKeeps (s t : State) : Prop :=
  t = { s with
    phase := t.phase, capturedCount := t.capturedCount, polls := t.polls, tStat := t.tStat
    tResp := t.tResp, cbuf := t.cbuf, link := t.link, trace := t.trace
    env := { s.env with xfers := t.env.xfers, timer := t.env.timer } }

theorem State.LoopKeeps.trans {s t u : State} (h : s.LoopKeeps t) (h' : t.LoopKeeps u) :
    s.LoopKeeps u := by
  rw [State.LoopKeeps, h', h]

theorem State.LoopKeeps.running {s t : State} (h : s.LoopKeeps t) (hrun : s.running = true) :
    t.running = true := by
  rw [h]
  exact hrun

/-- The capture loop has stored the samples of some answers and stands at C1 again, with `rest` still to
come. -/
structure State.Captured (s t : State) (answers rest : List XferAnswer) : Prop where
  keeps : s.LoopKeeps t
  phase : t.phase = .c1
  coming : t.env.xfers = rest
  count : t.capturedCount.toNat = s.capturedCount.toNat + answers.length
  stored : t.cbuf = s.cbuf.writeWords s.capturedCount.toNat
    (answers.map fun a => sampleOf s.capWidth a.resp)

/-- The samples of one answer and then those of the following ones. -/
theorem State.Captured.cons {s t u : State} {a : XferAnswer} {answers rest : List XferAnswer}
    (h : s.Captured t [a] (answers ++ rest)) (h' : t.Captured u answers rest) :
    s.Captured u (a :: answers) rest := by
  have hwidth : t.capWidth = s.capWidth := by rw [h.keeps]
  refine ⟨h.keeps.trans h'.keeps, h'.phase, h'.coming, ?_, ?_⟩
  · rw [h'.count, h.count]
    simp only [List.length_cons, List.length_nil]
    omega
  · rw [h'.stored, h.stored, h.count, hwidth]
    rfl

section CaptureLoop
variable {s : State} (h : s.Inv) (hrun : s.running = true)
include h hrun

/-- C5: each reading below 1 ms is one more step there; the delay ends at the first other one, or when none is
left (R120, log 20). -/
theorem reaches_delayOver (hp : s.phase = .c5) : ∃ readings, s.Reaches { s with
    env := { s.env with timer := readings }, trace := .delay 1 :: s.trace, phase := .c1 } := by
  induction htimer : s.env.timer generalizing s with
  | nil =>
    have e := delayStep_noReading htimer
    obtain ⟨hstep, -⟩ := step_runPhase h hrun ((runPhase_c5 hp).trans e)
    exact ⟨s.env.timer, .step hstep (.refl _)⟩
  | cons ms readings ih =>
    rcases Nat.lt_or_ge ms 1 with hms | hms
    · have e := delayStep_held htimer hms
      obtain ⟨hstep, h'⟩ := step_runPhase h hrun ((runPhase_c5 hp).trans e)
      obtain ⟨left, hleft⟩ := ih h' hrun hp rfl
      exact ⟨left, .step hstep hleft⟩
    · have e := delayStep_over htimer hms
      obtain ⟨hstep, -⟩ := step_runPhase h hrun ((runPhase_c5 hp).trans e)
      exact ⟨readings, .step hstep (.refl _)⟩

/-- One round of the loop: from C1 through the transfer, the store, the count and the delay to C1 (R117). -/
theorem reaches_oneSample (hp : s.phase = .c1)
    (hmore : s.capturedCount.toNat < s.targetLength.toNat) {a : XferAnswer} {rest : List XferAnswer}
    (hx : s.env.xfers = a :: rest) (hb : ∀ b, s.cfg.pollBound = some b → a.busyPolls < b) :
    ∃ t, s.Reaches t ∧ s.Captured t [a] rest := by
  have hloop : s.inLoop = true := by simpa [State.phaseOk, hp] using h.phase
  have hs := (inLoop_iff.mp hloop).1
  have hmax := (h.count_le hs).2
  have hcap : s.capturedCount.toNat < Config.capMax := Nat.lt_of_lt_of_le hmore hmax
  obtain ⟨e1, h1⟩ := step_runPhase h hrun ((runPhase_c1 hp).trans (loopTestStep_more hmore))
  obtain ⟨e2, h2⟩ := step_runPhase h1 hrun (runPhase_n0_c2 (.inr rfl))
  rw [show (s.goto .c2).state = .capturing from hs] at e2 h2
  have transfer := transferRunsItsSevenSteps _ _ a.busyPolls a.stat a.resp a.more rest h2 hrun rfl hx hb
  have h3 := inv_stepsTo h2 transfer
  obtain ⟨e4, h4⟩ := step_runPhase h3 hrun ((runPhase_c3 rfl).trans (storeStep_stored hcap))
  obtain ⟨e5, h5⟩ := step_runPhase h4 hrun (runPhase_c4 rfl)
  obtain ⟨readings, delay⟩ := reaches_delayOver h5 hrun rfl
  exact ⟨_, .step e1 (.step e2 (.trans ⟨_, transfer⟩ (.step e4 (.step e5 delay)))),
    rfl, rfl, rfl, toNat_count_succ hmore hmax, rfl⟩

/-- The whole loop, by induction on the answers: one round for each (R117). -/
theorem reaches_allSamples (hp : s.phase = .c1) {answers rest : List XferAnswer}
    (hlen : s.capturedCount.toNat + answers.length = s.targetLength.toNat)
    (hx : s.env.xfers = answers ++ rest)
    (hb : ∀ b, s.cfg.pollBound = some b → ∀ a ∈ answers, a.busyPolls < b) :
    ∃ t, s.Reaches t ∧ s.Captured t answers rest := by
  induction answers generalizing s with
  | nil => exact ⟨s, .refl s, rfl, hp, hx, rfl, rfl⟩
  | cons a answers ih =>
    rw [List.length_cons] at hlen
    obtain ⟨t, hst, hone⟩ := reaches_oneSample h hrun hp (by omega) hx
      fun b hbound => hb b hbound a List.mem_cons_self
    have hcfg : t.cfg = s.cfg := by rw [hone.keeps]
    have htarget : t.targetLength = s.targetLength := by rw [hone.keeps]
    have hcount := hone.count
    rw [List.length_singleton] at hcount
    obtain ⟨u, htu, hall⟩ := ih (hst.inv h) (hone.keeps.running hrun) hone.phase (by rw [htarget]; omega) hone.coming
      fun b hbound x hmem => hb b (hcfg ▸ hbound) x (List.mem_cons_of_mem a hmem)
    exact ⟨u, hst.trans htu, hone.cons hall⟩

end CaptureLoop

/-- The state after C6 with an answer of the sink, its record, and the two writes of C7 (R121, R122). -/
def State.sessionEnded (s : State) (opens : Bool) (rest : List Bool) : State :=
  { s with
    sink := s.sink.persisted s.cfg opens
      (persistBytes s.cfg.sinkByteOrder s.capWidth s.cbuf s.targetLength.toNat)
    env := { s.env with sink := rest }
    trace := .log (persistLog opens s.targetLength) ::
      .persist s.targetLength s.capWidth opens :: s.trace
    capturedCount := 0
    state := .negotiating
    phase := .k0 }

/-- From C6 of the invariant the session ends in four steps, whatever the sink answers (R121, R122). -/
theorem stepsTo_sessionEnded {s : State} (h : s.Inv) (hrun : s.running = true) (hp : s.phase = .c6)
    {opens : Bool} {rest : List Bool} (hsink : s.env.sink = opens :: rest) :
    stepsTo 4 s (s.sessionEnded opens rest) := by
  have hloop : s.inLoop = true := by
    have hok := h.phase
    simp only [State.phaseOk, hp, Bool.and_eq_true] at hok
    exact hok.1
  have hmax : s.targetLength.toNat ≤ Config.capMax := (h.count_le (inLoop_iff.mp hloop).1).2
  have hlog : afterLog (persistLog opens s.targetLength) = .c7 := by cases opens <;> rfl
  obtain ⟨e1, h1⟩ := step_runPhase h hrun ((runPhase_c6 hp).trans (persistStep_answered hmax hsink))
  obtain ⟨e2, h2⟩ := step_runPhase h1 hrun (runPhase_emit rfl)
  obtain ⟨e3, h3⟩ := step_runPhase h2 hrun (runPhase_c7 hlog)
  obtain ⟨e4, -⟩ := step_runPhase h3 hrun (runPhase_c7State rfl)
  exact ⟨_, e1, _, e2, _, e3, _, e4, rfl⟩

/-- C0 to C6 of a capture: the width is latched, and the loop stores one sample for each answer (R116, R117). -/
theorem reaches_captureComplete {s : State} (h : s.Inv) (hrun : s.running = true) (hp : s.phase = .c0)
    {answers rest : List XferAnswer} (hlen : answers.length = s.targetLength.toNat)
    (hx : s.env.xfers = answers ++ rest)
    (hb : ∀ b, s.cfg.pollBound = some b → ∀ a ∈ answers, a.busyPolls < b) :
    ∃ t, s.Reaches (t.goto .c6) ∧ { s with capWidth := s.widthMode }.LoopKeeps t ∧ t.env.xfers = rest ∧
      t.cbuf = s.cbuf.writeWords 0 (answers.map fun a => sampleOf s.widthMode a.resp) := by
  have hzero : s.capturedCount.toNat = 0 := by
    have hok := h.phase
    simp only [State.phaseOk, hp, Bool.and_eq_true, beq_iff_eq] at hok
    rw [hok.2]
    rfl
  obtain ⟨latch, h1⟩ := step_runPhase h hrun (runPhase_c0 hp)
  have htarget : s.capturedCount.toNat + answers.length = s.targetLength.toNat := by omega
  obtain ⟨t, loop, hkeeps, hphase, hcoming, hcount, hstored⟩ :=
    reaches_allSamples h1 hrun rfl htarget hx hb
  have hcomplete : t.targetLength.toNat ≤ t.capturedCount.toNat := by
    rw [hcount, show t.targetLength = s.targetLength by rw [hkeeps]]
    exact htarget.ge
  obtain ⟨complete, -⟩ := step_runPhase (loop.inv h1) (hkeeps.running hrun)
    ((runPhase_c1 hphase).trans (loopTestStep_complete hcomplete))
  exact ⟨t, .step latch (loop.trans (.step complete (.refl _))), hkeeps, hcoming, hzero ▸ hstored⟩

/-- Settles O43: the loop has stored the answers' samples from entry 0 on, and the bytes given to the sink are
those of the stored words. -/
theorem captureSessionStoresAndPersistsItsSamples :
    Obligations.CaptureSessionStoresAndPersistsItsSamples := by
  intro s answers rest opens more h hrun hp hb hlen hx hsink
  obtain ⟨t, capture, hkeeps, hcoming, hstored⟩ := reaches_captureComplete h hrun hp hlen hx hb
  have hinv := capture.inv h
  have hrun' : (t.goto .c6).running = true := hkeeps.running hrun
  have hsink' : (t.goto .c6).env.sink = opens :: more := by
    rw [hkeeps]
    exact hsink
  have ending := stepsTo_sessionEnded hinv hrun' rfl hsink'
  obtain ⟨k, hsteps⟩ := capture.trans ⟨4, ending⟩
  have hwf := (memoryOk_iff.mp h.memory).1
  have hentry (j : Nat) : t.cbuf.readWord j =
      (answers[j]?.map fun a => sampleOf s.widthMode a.resp).getD (s.entry j) := by
    rw [hstored, Memory.readWord_writeWords _ _ 0 j hwf, if_pos (Nat.zero_le j), List.getElem?_map]
    rfl
  have hbytes : persistBytes s.cfg.sinkByteOrder s.widthMode t.cbuf s.targetLength.toNat =
      answers.flatMap fun a =>
        sampleBytes s.cfg.sinkByteOrder s.widthMode (sampleOf s.widthMode a.resp) := by
    rw [← hlen, ← List.length_map (fun a : XferAnswer => sampleOf s.widthMode a.resp),
      persistBytes_of_entries, List.flatMap_map]
    intro j v hv
    rw [hentry, ← List.getElem?_map, hv]
    rfl
  refine ⟨k, _, hsteps, rfl, rfl, rfl, ?target, ?width, ?fault, hcoming, fun j a hj => ?sample,
    fun j hj => ?other, ?sink⟩
  case target => rw [hkeeps]; rfl
  case width => rw [hkeeps]; rfl
  case fault => exact running_fault hrun'
  case sample => exact (hentry j).trans (by rw [hj]; rfl)
  case other => exact (hentry j).trans (by rw [List.getElem?_eq_none hj]; rfl)
  case sink =>
    rw [← hbytes, hkeeps]
    rfl

/-- Settles O40: a sink that cannot be opened keeps its object, and the session ends as after an Ok (R128). -/
theorem failedPersistStillResetsTheSession : Obligations.FailedPersistStillResetsTheSession :=
  fun s _ h hrun hp hsink =>
    ⟨s.sink.first && !s.cfg.sinkFirstOnFail, stepsTo_sessionEnded h hrun hp hsink⟩

/-! ### The first transaction after reset (R154) -/

/-- At T1 of a PING transfer the step is its error clear, whatever else holds of the state (R82). -/
theorem runPhase_ping_t1 {s : State} (hp : s.phase = .transfer .t1 pingTransfer) :
    runPhase s = transferStep .t1 pingTransfer s := by
  rw [runPhase_instr (i := .ping) (by rw [hp]; rfl) rfl]
  exact exec_command_transfer (i := .ping) rfl hp

/-- From K3 in Idle three steps lead through the entry into the PING transfer to its T2 (R107). -/
theorem stepsTo_pingCleared {s : State} (hl : s.cfg.legal = true) (hrun : s.running = true)
    (hp : s.phase = .k3) (hs : s.state = .idle) (hc : s.capturedCount = 0) :
    stepsTo 3 s { s with
      link := { s.link with stat := s.link.stat &&& ~~~s.cfg.errMask s.cfg.channel }
      trace := .clr s.cfg.channel :: s.trace
      phase := .transfer .t2 pingTransfer } := by
  have hok : s.sessionOk = true := sessionOk_iff.mpr ⟨by simp [hs], fun _ => hc⟩
  exact ⟨_, step_eq_runPhase hrun hl ((runPhase_k3 hp).trans (dispatchStep_of_state.1 hs)) hok,
    _, step_eq_runPhase hrun hl (runPhase_i0 rfl) hok,
    _, step_eq_runPhase hrun hl ((runPhase_ping_t1 rfl).trans (transferStep_t1 _ _)) hok, rfl⟩

/-- The block at K2 of the first tick after reset. -/
def State.firstPoll (c : Config) (g : Tick) (rest : List Tick) : State :=
  { State.resetWith c with env := Env.none.granted g rest, phase := .k2 g.events }

/-- From reset the first tick's events are polled in two steps (R102, R103). -/
theorem stepsTo_firstPoll {c : Config} (hl : c.legal = true) (g : Tick) (rest : List Tick) :
    stepsTo 2 { State.resetWith c with env := { Env.none with ticks := g :: rest } }
      (State.firstPoll c g rest) :=
  ⟨_, step_eq_runPhase rfl hl ((tickIsAwaitedAndEventsLatch _ rfl).2 g rest rfl) rfl,
    _, step_eq_runPhase rfl hl ((pollConsumesLatchesOutsideCaptures _ rfl).1 (.inl rfl)) rfl, rfl⟩

/-- Settles O50: the first tick is polled, a toggle is taken and recorded, and the Idle handler starts a
PING. -/
theorem firstTransactionIsAPing : Obligations.FirstTransactionIsAPing := by
  intro c g rest hl hexit
  have poll := stepsTo_firstPoll hl g rest
  have hrun : (State.firstPoll c g rest).running = true := rfl
  obtain ⟨-, toggled, quiet⟩ := exitWinsOverToggle.1 (State.firstPoll c g rest) g.events rfl
  cases htoggle : g.events.toggle with
  | false =>
    have dispatch : stepsTo 1 (State.firstPoll c g rest) { State.firstPoll c g rest with phase := .k3 } :=
      stepsTo_one (step_eq_runPhase hrun hl (quiet hexit htoggle) rfl)
    have ping := stepsTo_trans dispatch (stepsTo_pingCleared hl hrun rfl rfl rfl)
    exact ⟨_, stepsTo_trans poll ping, rfl, rfl⟩
  | true =>
    have dispatch : stepsTo 2 (State.firstPoll c g rest) { State.firstPoll c g rest with
        widthMode := otherWidth c.initialWidth
        trace := [.log (.modeSwitch (otherWidth c.initialWidth))]
        phase := .k3 } :=
      ⟨_, step_eq_runPhase hrun hl (toggled hexit htoggle) rfl,
        _, step_eq_runPhase hrun hl (runPhase_emit rfl) rfl, rfl⟩
    have ping := stepsTo_trans dispatch (stepsTo_pingCleared hl hrun rfl rfl rfl)
    exact ⟨_, stepsTo_trans poll ping, rfl, rfl⟩

/-! ### Which label writes `state` and the width registers (R123, R124) -/

/-- The labels that write `state`, `cap_width` and `width_mode`, and those that lead to the last write of C7. -/
structure State.ModeStep (s t : State) : Prop where
  state : t.state = s.state ∨
    (∃ id, s.phase = .i2 id ∧ id = s.cfg.handheldId ∧ t.state = .negotiating) ∨
    (∃ len, s.phase = .n4State len ∧ t.state = .capturing) ∨
    (s.phase = .c7State ∧ t.state = .negotiating)
  capWidth : t.capWidth = s.capWidth ∨ (s.phase = .c0 ∧ t.capWidth = s.widthMode)
  widthMode : t.widthMode = s.widthMode ∨ ∃ ev, s.phase = .k2 ev ∧ ev.toggle = true
  sessionEnd : t.phase = .c7State → s.phase = .c7State ∨ s.phase = .c7

section ModeSteps
variable {s t : State}

/-- A step that keeps `state` and the widths, and stays at its label or goes to another one than C7's last
write. -/
theorem State.ModeStep.of_kept (hs : t.state = s.state) (hc : t.capWidth = s.capWidth)
    (hw : t.widthMode = s.widthMode) (hp : t.phase = s.phase ∨ t.phase ≠ .c7State) : s.ModeStep t :=
  ⟨.inl hs, .inl hc, .inl hw, fun hend => .inl (hp.elim (fun he => he ▸ hend) (absurd hend))⟩

theorem State.ModeStep.refl (s : State) : s.ModeStep s := .of_kept rfl rfl rfl (.inl rfl)

theorem State.ModeStep.raise (s : State) (f : FaultCode) : s.ModeStep (s.raise f) :=
  .of_kept rfl rfl rfl (.inl rfl)

theorem State.ModeStep.goto (s : State) {p : Phase} (hp : p ≠ .c7State) : s.ModeStep (s.goto p) :=
  .of_kept rfl rfl rfl (.inr hp)

theorem reject_modeStep {cause : RejectCause} (h : reject cause s = .next t) : s.ModeStep t := by
  obtain ⟨p, hp, rfl⟩ := reject_cases h
  exact .of_kept rfl rfl rfl (.inr (by rcases hp with rfl | rfl <;> simp))

theorem sequencerStep_modeStep (h : sequencerStep s = .next t) : s.ModeStep t := by
  unfold sequencerStep at h
  cases hp : s.phase <;> simp only [hp] at h
  case k0 =>
    obtain ⟨_, rfl⟩ | ⟨_, _, _, rfl⟩ := waitTick_cases h
    · exact .refl t
    · exact .of_kept rfl rfl rfl (.inr (by simp))
  case k1 =>
    obtain ⟨_, rfl⟩ | ⟨_, rfl⟩ := pollInputStep_cases h
    · exact .of_kept rfl rfl rfl (.inr (by simp))
    · exact .goto s (by simp)
  case k2 ev =>
    obtain ⟨_, rfl⟩ | ⟨_, htoggle, rfl⟩ | ⟨_, _, rfl⟩ := eventsStep_cases h
    · exact .of_kept rfl rfl rfl (.inl rfl)
    · exact ⟨.inl rfl, .inl rfl, .inr ⟨ev, hp, htoggle⟩, by simp⟩
    · exact .goto s (by simp)
  case k3 =>
    obtain ⟨_, rfl⟩ | ⟨_, rfl⟩ | ⟨_, rfl⟩ | ⟨_, rfl⟩ := dispatchStep_cases h
    · exact .goto s (by simp)
    · exact .goto s (by simp)
    · exact .goto s (by simp)
    · exact .raise s _
  case i2 id =>
    obtain ⟨hid, rfl⟩ | ⟨_, _, rfl⟩ | ⟨_, _, rfl⟩ := identifyStep_cases h
    · exact ⟨.inr (.inl ⟨id, hp, hid, rfl⟩), .inl rfl, .inl rfl, by simp⟩
    · exact .goto s (by simp)
    · exact .goto s (by simp)
  case n1 =>
    obtain ⟨_, hr⟩ | ⟨_, rfl⟩ := errorTestStep_cases h
    · exact reject_modeStep hr
    · exact .goto s (by simp)
  case n3 =>
    obtain ⟨_, rfl⟩ | ⟨_, hr⟩ := lengthTestStep_cases h
    · exact .goto s (by simp)
    · exact reject_modeStep hr
  case n4State len =>
    cases h
    exact ⟨.inr (.inr (.inl ⟨len, hp, rfl⟩)), .inl rfl, .inl rfl, by simp⟩
  case c0 =>
    cases h
    exact ⟨.inl rfl, .inr ⟨hp, rfl⟩, .inl rfl, by simp⟩
  case c1 => obtain ⟨_, rfl⟩ | ⟨_, rfl⟩ := loopTestStep_cases h <;> exact .goto s (by simp)
  case c3 =>
    obtain ⟨_, rfl⟩ | ⟨_, rfl⟩ := storeStep_cases h
    · exact .of_kept rfl rfl rfl (.inr (by simp))
    · exact .raise s _
  case c5 =>
    obtain ⟨_, rfl⟩ | ⟨_, rfl⟩ := delayStep_cases h
    · exact .of_kept rfl rfl rfl (.inl rfl)
    · exact .of_kept rfl rfl rfl (.inr (by simp))
  case c6 =>
    obtain ⟨_, _, rfl⟩ | ⟨_, _, _, _, rfl⟩ | ⟨_, rfl⟩ := persistStep_cases h
    · exact .refl t
    · exact .of_kept rfl rfl rfl (.inr (by simp))
    · exact .raise s _
  case c7 =>
    cases h
    exact ⟨.inl rfl, .inl rfl, .inl rfl, fun _ => .inr hp⟩
  case c7State =>
    cases h
    exact ⟨.inr (.inr (.inr ⟨hp, rfl⟩)), .inl rfl, .inl rfl, by simp [State.endTick]⟩
  case emit r =>
    cases h
    exact .of_kept rfl rfl rfl (.inr (by cases r <;> simp [afterLog]))
  case i1 | n2 | n4 | c4 =>
    cases h
    exact .of_kept rfl rfl rfl (.inr (by simp))
  case i0 | n0 | c2 | transfer =>
    cases h
    exact .refl s

/-- A transfer's label leads to another one, or to the label its handler goes on at (R87). -/
theorem transferStep_phase (h : s.Inv) {l : TransferLabel} {x : Transfer} (hp : s.phase = .transfer l x)
    (e : transferStep l x s = .next t) :
    (∃ l', t.phase = .transfer l' x) ∨ t.phase = returnPhase x.ret := by
  cases l with
  | t1 =>
    rw [transferStep_t1] at e
    cases e
    exact .inl ⟨_, rfl⟩
  | t2 =>
    rw [transferStep_t2 h.legal h.aligned] at e
    cases e
    exact .inl ⟨_, rfl⟩
  | t3 cw =>
    rw [transferStep_t3 h.aligned] at e
    cases e
    exact .inl ⟨_, rfl⟩
  | t4 cw =>
    rw [transferStep_t4 h.aligned (controlRefusal_inFlight h hp)] at e
    cases e
    exact .inl ⟨_, rfl⟩
  | t5 =>
    cases hb : boundReached s.cfg s.polls with
    | true =>
      rw [transferStep_t5_bound hb] at e
      cases e
      exact .inl ⟨_, hp⟩
    | false =>
      rw [transferStep_t5 h.legal h.aligned hb] at e
      cases hbusy : (controllerPoll s).link.busy <;> simp only [hbusy, countPoll_eq] at e <;> cases e <;>
        exact .inl ⟨_, rfl⟩
  | t6 =>
    rw [transferStep_t6 h.aligned] at e
    cases e
    exact .inl ⟨_, rfl⟩
  | t7 =>
    rw [transferStep_t7 h.legal h.aligned] at e
    cases e
    exact .inr rfl

/-- The step at a phase writes them where a label of the sequencer does: an instruction writes no session
register. -/
theorem runPhase_modeStep (h : s.Inv) (e : runPhase s = .next t) : s.ModeStep t := by
  have sequencer (hf : fetch s.phase = none) : s.ModeStep t := by
    rw [runPhase_none hf] at e
    exact sequencerStep_modeStep e
  cases hp : s.phase with
  | transfer l x =>
    rw [runPhase_transfer h hp] at e
    have hkeeps := transferStep_keepsSession e
    refine .of_kept (by rw [hkeeps]) (by rw [hkeeps]) (by rw [hkeeps]) (.inr ?_)
    obtain ⟨l', hl'⟩ | hret := transferStep_phase h hp e
    · simp [hl']
    · rw [hret]
      cases x.ret <;> simp [returnPhase]
  | i0 =>
    rw [runPhase_i0 hp] at e
    cases e
    exact .goto s (by simp)
  | n0 =>
    rw [runPhase_n0_c2 (.inl hp)] at e
    cases e
    exact .goto s (by simp)
  | c2 =>
    rw [runPhase_n0_c2 (.inr hp)] at e
    cases e
    exact .goto s (by simp)
  | k0 | k1 | k2 | k3 | i1 | i2 | n1 | n2 | n3 | n4 | c0 | c1 | c3 | c4 | c5 | c6 | c7
  | n4State | c7State | emit => exact sequencer (by rw [hp]; rfl)

/-- The machine's step without a restart writes them where the step at its phase does. -/
theorem step_modeStep (h : s.Inv) (hr : s.noRestart = true) (e : step s = .next t) : s.ModeStep t := by
  have hm : (hostInput s).2.ModeStep t := by
    obtain ⟨r, hsome, _⟩ | ⟨_, _, _, ⟨_, rfl⟩ | ⟨_, hg⟩⟩ := step_cases e
    · simp [State.noRestart, hsome] at hr
    · exact .refl _
    · obtain ⟨hrun, _⟩ | ⟨_, _, _, _, rfl⟩ := guardInvariant_cases hg
      · exact runPhase_modeStep (inv_hostInput h) hrun
      · exact .raise _ _
  rw [hostInput_state] at hm
  exact ⟨hm.state, hm.capWidth, hm.widthMode, hm.sessionEnd⟩

end ModeSteps

/-- Settles O59: three labels write `state`, and the invariant says what holds at each of them. -/
theorem stateMovesOnlyAsTabled : Obligations.StateMovesOnlyAsTabled := by
  refine ⟨fun s t h hr e hne => ?moves, fun s t h hr e hend => ?sessionEnd⟩
  case moves =>
    have hok := h.phase
    obtain hs | ⟨id, hp, hid, ht⟩ | ⟨len, hp, ht⟩ | ⟨hp, ht⟩ := (step_modeStep h hr e).state
    · exact absurd hs hne
    · simp only [State.phaseOk, hp, Bool.and_eq_true, beq_iff_eq] at hok
      obtain ⟨hs, rfl⟩ := hok
      exact .inl ⟨hs, ht, hp, hid⟩
    · simp only [State.phaseOk, hp, Bool.and_eq_true, beq_iff_eq, Bool.not_eq_true', lengthOk_iff] at hok
      obtain ⟨⟨⟨⟨hs, herr⟩, rfl⟩, hlen⟩, -⟩ := hok
      exact .inr (.inl ⟨hs, ht, hp, by simpa [errorsPending] using herr, hlen⟩)
    · simp only [State.phaseOk, hp, Bool.and_eq_true, inLoop_iff] at hok
      exact .inr (.inr ⟨hok.1.1, ht, hp⟩)
  case sessionEnd =>
    refine ((step_modeStep h hr e).sessionEnd hend).imp_right fun hp => ⟨hp, ?_⟩
    have hok := h.phase
    simp only [State.phaseOk, hp, Bool.and_eq_true, beq_iff_eq] at hok
    exact hok.2

/-- Settles O58: C0 and K2 alone write the widths, K2 only with an event, and a Capturing tick has none
(R106). -/
theorem widthOfACaptureIsFixed : Obligations.WidthOfACaptureIsFixed := by
  refine ⟨fun s t h hr e => ⟨fun hne => ?capWidth, fun hne => ?widthMode⟩,
    fun s opens rest hp hlen hsink => ?persist⟩
  case capWidth => exact (step_modeStep h hr e).capWidth.resolve_left hne
  case widthMode =>
    obtain ⟨ev, hp, htoggle⟩ := (step_modeStep h hr e).widthMode.resolve_left hne
    have hok := h.phase
    simp only [State.phaseOk, hp, htoggle, Bool.or_true, Bool.not_true, Bool.or_false, Bool.and_eq_true,
      bne_iff_ne] at hok
    exact ⟨⟨ev, hp⟩, hok.2⟩
  case persist => exact ⟨_, (runPhase_c6 hp).trans (persistStep_answered hlen hsink), rfl, rfl⟩

end Sys2Proof.Machine
end

section
/-!
PROOFS. The statements of 43_storage_interface.md: the sink and the bytes it is given, a termination by the
host, and that no step depends on the records. For the last, an older history is put behind the records of a
state, and every operation, in the order of the model's files, is shown to commute with that.
-/

namespace Sys2Proof.Machine

/-! ### The storage sink -/

/-- Settles O41: both cases are the sink's answer where the destination opens (R127). -/
theorem firstPersistTruncatesLaterAppend : Obligations.FirstPersistTruncatesLaterAppend := by
  intro k c bytes
  exact ⟨fun hfirst => by simp [Sink.persisted, hfirst], fun hlater => by simp [Sink.persisted, hlater]⟩

/-- Where the destination does not open, the object is kept and `sink_first` is cleared exactly if the
configuration says so (R128). -/
theorem Sink.persisted_failed (k : Sink) (c : Config) (bytes : List Byte) :
    k.persisted c false bytes = { k with first := k.first && !c.sinkFirstOnFail } := rfl

/-- How many bytes a sample has at a width (R126). -/
def sampleSize : Width → Nat
  | .w32 => 4
  | .w16 => 2

theorem length_sampleBytes (order : ByteOrder) (w : Width) (e : Word) :
    (sampleBytes order w e).length = sampleSize w := by
  cases order <;> cases w <;> rfl

/-- One entry more puts its sample's bytes after those of the entries before it. -/
theorem persistBytes_succ (order : ByteOrder) (w : Width) (m : Memory) (n : Nat) :
    persistBytes order w m (n + 1) =
      persistBytes order w m n ++ sampleBytes order w (m.readWord n) := by
  simp [persistBytes, List.range_succ]

theorem length_persistBytes (order : ByteOrder) (w : Width) (m : Memory) (n : Nat) :
    (persistBytes order w m n).length = sampleSize w * n := by
  induction n with
  | zero => rfl
  | succ n ih => rw [persistBytes_succ, List.length_append, ih, length_sampleBytes, Nat.mul_succ]

/-- The bytes of n entries depend on those entries only. -/
theorem persistBytes_congr (order : ByteOrder) (w : Width) {m m' : Memory} {n : Nat}
    (h : ∀ i, i < n → m.readWord i = m'.readWord i) :
    persistBytes order w m n = persistBytes order w m' n := by
  induction n with
  | zero => rfl
  | succ n ih =>
    rw [persistBytes_succ, persistBytes_succ, h n n.lt_succ_self,
      ih fun i hi => h i (hi.trans n.lt_succ_self)]

/-- Settles O42, entry by entry. -/
theorem persistedBytesAreTheSamplesInOrder : Obligations.PersistedBytesAreTheSamplesInOrder := by
  refine ⟨fun order m n => ⟨length_persistBytes order .w32 m n, length_persistBytes order .w16 m n⟩,
    persistBytes_succ, fun order w _ _ _ h => persistBytes_congr order w h,
    fun w e => ⟨rfl, rfl, rfl⟩, fun k c bytes => ?failed⟩
  case failed =>
    rw [Sink.persisted_failed]
    exact ⟨rfl, fun hkeep => by simp [hkeep], fun huse => by simp [huse]⟩

/-! ### Termination by the host -/

/-- Settles O49: the step is the reset of the block, and the host's input that brings it touches no other
agent's part of the state. -/
theorem hostTerminationIsAReset : Obligations.HostTerminationIsAReset := by
  intro s r hr
  refine ⟨_, step_restart hr, ?_⟩
  rw [hostInput_state]
  exact ⟨rfl, Memory.readWord_nil, rfl, fun bytes => rfl⟩

/-! ### A history behind the records -/

/-- The state with an older history behind its records. -/
def State.withOlder (s : State) (older : List Event) : State := { s with trace := s.trace ++ older }

/-- The outcome of a step with an older history behind the records of its next state. -/
def outcomeWithOlder (older : List Event) : Result → Result
  | .next t => .next (t.withOlder older)
  | .fault f => .fault f
  | .refused why => .refused why

theorem outcomeWithOlder_next {older : List Event} {r : Result} {t : State}
    (h : outcomeWithOlder older r = .next t) : ∃ u, r = .next u ∧ t = u.withOlder older := by
  cases r with
  | next u => exact ⟨u, rfl, by cases h; rfl⟩
  | fault f => cases h
  | refused why => cases h

theorem outcomeWithOlder_fault {older : List Event} {r : Result} {f : Fault} :
    outcomeWithOlder older r = .fault f ↔ r = .fault f := by
  cases r <;> simp [outcomeWithOlder]

theorem outcomeWithOlder_refused {older : List Event} {r : Result} {why : Refusal} :
    outcomeWithOlder older r = .refused why ↔ r = .refused why := by
  cases r <;> simp [outcomeWithOlder]

/-- An older history makes no difference to a step but that it is still there afterwards. -/
def IgnoresHistory (f : State → Result) : Prop :=
  ∀ s older, f (s.withOlder older) = outcomeWithOlder older (f s)

section History
variable (s : State) (older : List Event)

@[simp] theorem State.withOlder_cfg : (s.withOlder older).cfg = s.cfg := rfl
@[simp] theorem State.withOlder_phase : (s.withOlder older).phase = s.phase := rfl
@[simp] theorem State.withOlder_polls : (s.withOlder older).polls = s.polls := rfl
@[simp] theorem State.withOlder_tStat : (s.withOlder older).tStat = s.tStat := rfl
@[simp] theorem State.withOlder_sentinelDone : (s.withOlder older).sentinelDone = s.sentinelDone := rfl

/-! ### The accesses -/

/-- A checked step goes on alike from accesses that differ in the older history only. -/
theorem finish_withOlder {α : Type} {g : α → α} {f : α → State} (r : Except FaultCode α)
    (hf : ∀ a, f (g a) = (f a).withOlder older) :
    finish (s.withOlder older) ((r.map g).map f) = outcomeWithOlder older (finish s (r.map f)) := by
  cases r with
  | error c => rfl
  | ok a => exact congrArg Host.Outcome.next (hf a)

theorem portWrite_withOlder (r : PortReg) (v : Word) :
    portWrite r v (s.withOlder older) = (portWrite r v s).map (·.withOlder older) := by
  dsimp only [portWrite, State.withOlder]
  split_ifs <;> rfl

theorem statRead_withOlder :
    statRead (s.withOlder older) = (statRead s).map (Prod.map id (·.withOlder older)) := by
  dsimp only [statRead, State.withOlder]
  split_ifs <;> rfl

theorem bufWrite_withOlder (k : Nat) (v : Word) :
    bufWrite k v (s.withOlder older) = (bufWrite k v s).map (·.withOlder older) := by
  dsimp only [bufWrite, State.withOlder]
  split <;> rfl

theorem bufRead_withOlder (k : Nat) :
    bufRead k (s.withOlder older) = (bufRead k s).map (Prod.map id (·.withOlder older)) := by
  dsimp only [bufRead, State.withOlder]
  split <;> rfl

/-- The controller's part in a poll comes from its busy bit and its coming answers (R146). -/
theorem controllerPoll_withOlder :
    controllerPoll (s.withOlder older) = (controllerPoll s).withOlder older := by
  dsimp only [controllerPoll, State.withOlder]
  split
  · split <;> rfl
  · rfl
  · rfl

theorem pollBusy_withOlder :
    pollBusy (s.withOlder older) = (pollBusy s).map (Prod.map id (·.withOlder older)) := by
  simp only [pollBusy, controllerPoll_withOlder, State.withOlder_cfg]
  split_ifs <;> rfl

theorem memWrite_withOlder (i : Nat) (v : Word) :
    memWrite i v (s.withOlder older) = (memWrite i v s).map (·.withOlder older) := by
  simp only [memWrite]
  split_ifs <;> rfl

end History

/-! ### The instructions -/

theorem sentinelStep_ignoresHistory (cw : Word) (x : Transfer) : IgnoresHistory (sentinelStep cw x) := by
  intro s older
  simp only [sentinelStep, portWrite_withOlder]
  exact finish_withOlder s older _ fun _ => rfl

theorem controlWriteStep_ignoresHistory (cw : Word) (x : Transfer) :
    IgnoresHistory (controlWriteStep cw x) := by
  intro s older
  simp only [controlWriteStep, portWrite_withOlder]
  split
  · rfl
  · exact finish_withOlder s older _ fun _ => rfl

theorem countPoll_withOlder (t : State) (older : List Event) :
    countPoll (t.withOlder older) = (countPoll t).withOlder older := by
  simp only [countPoll_eq]
  rfl

/-- T5 tests the bound, which no record counts, then polls (R81, R89). -/
theorem pollStep_ignoresHistory (x : Transfer) : IgnoresHistory (pollStep x) := by
  intro s older
  simp only [pollStep, pollBusy_withOlder, State.withOlder_cfg, State.withOlder_polls]
  split_ifs
  · rfl
  · refine finish_withOlder s older _ fun ⟨b, t⟩ => ?_
    cases b with
    | true => exact countPoll_withOlder (t.goto (.transfer .t5 x)) older
    | false => rfl

theorem statusStep_ignoresHistory (x : Transfer) : IgnoresHistory (statusStep x) := by
  intro s older
  simp only [statusStep, statRead_withOlder]
  split
  · exact finish_withOlder s older _ fun _ => rfl
  · rfl

theorem transferStep_ignoresHistory (l : TransferLabel) (x : Transfer) :
    IgnoresHistory (transferStep l x) := by
  intro s older
  cases l with
  | t1 => rfl
  | t2 =>
    simp only [transferStep, writeCommandStep, bufWrite_withOlder]
    exact finish_withOlder s older _ fun _ => rfl
  | t3 cw => exact sentinelStep_ignoresHistory cw x s older
  | t4 cw => exact controlWriteStep_ignoresHistory cw x s older
  | t5 => exact pollStep_ignoresHistory x s older
  | t6 => exact statusStep_ignoresHistory x s older
  | t7 =>
    simp only [transferStep, responseStep, bufRead_withOlder]
    exact finish_withOlder s older _ fun _ => rfl

/-- Inside a transfer a command is the step of its label, outside it enters T1, whatever the history. -/
theorem commandStep_ignoresHistory (x0 : Transfer) : IgnoresHistory (commandStep x0) := by
  intro s older
  by_cases hp : ∃ l x, s.phase = .transfer l x
  · obtain ⟨l, x, hp⟩ := hp
    simp only [commandStep, State.withOlder_phase, hp]
    exact transferStep_ignoresHistory l _ s older
  · have henters : ∀ l x, s.phase ≠ .transfer l x := fun l x hlx => hp ⟨l, x, hlx⟩
    rw [commandStep_enters henters, commandStep_enters (s := s.withOlder older) henters]
    rfl

/-- Whether the sentinel is written is read off the phase, not off the trace (R78, R79). -/
theorem configureTransfer_ignoresHistory (c : BitVec 2) (n o : BitVec 7) :
    IgnoresHistory (configureTransfer c n o) := by
  intro s older
  cases hdone : s.sentinelDone with
  | true =>
    simp only [configureTransfer, State.withOlder_sentinelDone, hdone, if_true]
    exact controlWriteStep_ignoresHistory _ s.transferOp s older
  | false =>
    simp only [configureTransfer, State.withOlder_sentinelDone, hdone, Bool.false_eq_true, if_false]
    exact sentinelStep_ignoresHistory _ s.transferOp s older

/-- Every instruction is a command or a control word, and neither reads the history. -/
theorem exec_ignoresHistory (i : Instr) : IgnoresHistory (exec i) := by
  intro s older
  obtain ⟨x0, hi⟩ | ⟨c, n, o, hi⟩ := command_or_controlWord i s.state
  · rw [exec_command hi, exec_command (s := s.withOlder older) hi]
    exact commandStep_ignoresHistory x0 s older
  · rw [exec_control hi, exec_control hi]
    exact configureTransfer_ignoresHistory c n o s older

/-! ### The labels of the sequencer -/

theorem waitTick_ignoresHistory : IgnoresHistory waitTick := by
  intro s older
  dsimp only [waitTick, State.withOlder]
  split <;> rfl

theorem pollInputStep_ignoresHistory : IgnoresHistory pollInputStep := by
  intro s older
  dsimp only [pollInputStep, State.withOlder]
  split <;> rfl

theorem eventsStep_ignoresHistory (ev : Events) : IgnoresHistory (eventsStep ev) := by
  intro s older
  simp only [eventsStep]
  split_ifs <;> rfl

theorem dispatchStep_ignoresHistory : IgnoresHistory dispatchStep := by
  intro s older
  dsimp only [dispatchStep, State.withOlder]
  split <;> rfl

theorem identifyStep_ignoresHistory (id : Half) : IgnoresHistory (identifyStep id) := by
  intro s older
  dsimp only [identifyStep, State.withOlder]
  split_ifs <;> rfl

/-- Whether a rejection is recorded is drawn by a counter of its own, not by the records (U11). -/
theorem reject_ignoresHistory (cause : RejectCause) : IgnoresHistory (reject cause) := fun _ _ => rfl

theorem errorTestStep_ignoresHistory : IgnoresHistory errorTestStep := by
  intro s older
  simp only [errorTestStep, reject_ignoresHistory _ s older, State.withOlder_cfg, State.withOlder_tStat]
  split_ifs <;> rfl

theorem lengthTestStep_ignoresHistory (len : Word) : IgnoresHistory (lengthTestStep len) := by
  intro s older
  simp only [lengthTestStep, reject_ignoresHistory _ s older]
  split_ifs <;> rfl

theorem loopTestStep_ignoresHistory : IgnoresHistory loopTestStep := by
  intro s older
  dsimp only [loopTestStep, State.withOlder]
  split_ifs <;> rfl

theorem storeStep_ignoresHistory : IgnoresHistory storeStep := by
  intro s older
  simp only [storeStep, memWrite_withOlder]
  exact finish_withOlder s older _ fun _ => rfl

theorem delayStep_ignoresHistory : IgnoresHistory delayStep := by
  intro s older
  unfold delayStep
  rw [apply_ite (outcomeWithOlder older)]
  rfl

/-- The bytes and the truncation come from the registers and from `sink_first` (R125, R127). -/
theorem persistStep_ignoresHistory : IgnoresHistory persistStep := by
  intro s older
  dsimp only [persistStep, State.withOlder]
  split_ifs
  · split <;> rfl
  · rfl

theorem sequencerStep_ignoresHistory : IgnoresHistory sequencerStep := by
  intro s older
  simp only [sequencerStep, State.withOlder_phase]
  cases s.phase with
  | k0 => exact waitTick_ignoresHistory s older
  | k1 => exact pollInputStep_ignoresHistory s older
  | k2 ev => exact eventsStep_ignoresHistory ev s older
  | k3 => exact dispatchStep_ignoresHistory s older
  | i2 id => exact identifyStep_ignoresHistory id s older
  | n1 => exact errorTestStep_ignoresHistory s older
  | n3 len => exact lengthTestStep_ignoresHistory len s older
  | c1 => exact loopTestStep_ignoresHistory s older
  | c3 => exact storeStep_ignoresHistory s older
  | c5 => exact delayStep_ignoresHistory s older
  | c6 => exact persistStep_ignoresHistory s older
  | i0 | i1 | n0 | n2 | n4 | c0 | c2 | c4 | c7 | n4State | c7State | emit | transfer => rfl

/-! ### The machine's step -/

theorem runPhase_ignoresHistory : IgnoresHistory runPhase := by
  intro s older
  simp only [runPhase, State.withOlder_phase]
  split
  · exact sequencerStep_ignoresHistory s older
  · split
    · exact exec_ignoresHistory _ s older
    · rfl

/-- The guard of R32 tests registers only. -/
theorem guardInvariant_withOlder (s : State) (older : List Event) (r : Result) :
    guardInvariant (s.withOlder older) (outcomeWithOlder older r) =
      outcomeWithOlder older (guardInvariant s r) := by
  cases r with
  | fault f => rfl
  | refused why => rfl
  | next t =>
    simp only [guardInvariant]
    rw [apply_ite (outcomeWithOlder older)]
    rfl

theorem blockStep_ignoresHistory : IgnoresHistory blockStep := by
  intro s older
  cases hl : s.cfg.legal with
  | false =>
    rw [blockStep_illegal hl, blockStep_illegal (s := s.withOlder older) hl]
    rfl
  | true =>
    cases hf : s.fault with
    | some f =>
      rw [blockStep_faulted hl hf, blockStep_faulted (s := s.withOlder older) hl hf]
      rfl
    | none =>
      cases hh : s.halted with
      | true =>
        rw [blockStep_halted hl hf hh, blockStep_halted (s := s.withOlder older) hl hf hh]
        rfl
      | false =>
        rw [blockStep_active hl hf hh, blockStep_active (s := s.withOlder older) hl hf hh,
          runPhase_ignoresHistory, guardInvariant_withOlder]

/-- The host's input comes from its own queue (R31, R134). -/
theorem hostInput_withOlder (s : State) (older : List Event) :
    hostInput (s.withOlder older) = ((hostInput s).1, (hostInput s).2.withOlder older) := by
  dsimp only [hostInput, State.withOlder]
  split <;> rfl

/-- A restart takes the records over as they are (log 15); every other step is the block's. -/
theorem step_ignoresHistory : IgnoresHistory step := by
  intro s older
  simp only [step, machineStep, hostInput_withOlder]
  split
  · rfl
  · exact blockStep_ignoresHistory _ older

/-- Settles O60: the state with either history is the state with no records and that history behind it. -/
theorem noStepDependsOnTheRecords : Obligations.NoStepDependsOnTheRecords := by
  intro s history
  have hstep (older : List Event) :
      step { s with trace := older } = outcomeWithOlder older (step { s with trace := [] }) :=
    step_ignoresHistory { s with trace := [] } older
  have hs : step s = outcomeWithOlder s.trace (step { s with trace := [] }) := hstep s.trace
  rw [hs, hstep history]
  simp only [outcomeWithOlder_fault, outcomeWithOlder_refused]
  refine ⟨fun t ht => ?next, fun _ hf => hf, fun _ hwhy => hwhy⟩
  case next =>
    obtain ⟨u, hu, rfl⟩ := outcomeWithOlder_next ht
    exact ⟨u.trace, rfl, by rw [hu]; rfl⟩

end Sys2Proof.Machine
end

section
/-!
PROOFS. The statement of 60_exceptions.md: of the faults of R140, a step from a state of the invariant can raise
`LinkStall` only. What each part of a step leaves of the fault register comes first: the sequencer's labels, the
labels of a transfer, then the step at a phase.
-/

namespace Sys2Proof.Machine

section FaultRegister
variable {s t : State}

/-! ### The labels of the sequencer -/

theorem reject_fault {cause : RejectCause} (e : reject cause s = .next t) : t.fault = s.fault := by
  obtain ⟨p, _, rfl⟩ := reject_cases e
  rfl

/-- K3 raises `IllegalState` only from a value of `state` that the registers' clause excludes (R141). -/
theorem dispatchStep_fault (h : s.Inv) (e : dispatchStep s = .next t) : t.fault = s.fault := by
  obtain ⟨_, rfl⟩ | ⟨_, rfl⟩ | ⟨_, rfl⟩ | ⟨hs, rfl⟩ := dispatchStep_cases e
  · rfl
  · rfl
  · rfl
  · exact absurd hs h.state_legal

/-- C3 stores within the capacity: the count is below a target of at most 512 (R32, R48). -/
theorem storeStep_fault (h : s.Inv) (hp : s.phase = .c3) (e : storeStep s = .next t) :
    t.fault = s.fault := by
  have hok := h.phase
  simp only [State.phaseOk, hp, Bool.and_eq_true, inLoop_iff, moreSamples_iff] at hok
  obtain ⟨⟨hs, _⟩, hlt⟩ := hok
  have hmax := (h.count_le hs).2
  obtain ⟨_, rfl⟩ | ⟨hcap, _⟩ := storeStep_cases e
  · rfl
  · exact absurd (hlt.trans_le hmax) (Nat.not_lt.mpr hcap)

/-- C6 persists within the capacity: the target is at most 512 (R32, R48). -/
theorem persistStep_fault (h : s.Inv) (hp : s.phase = .c6) (e : persistStep s = .next t) :
    t.fault = s.fault := by
  have hok := h.phase
  simp only [State.phaseOk, hp, Bool.and_eq_true, inLoop_iff] at hok
  obtain ⟨⟨hs, _⟩, _⟩ := hok
  have hmax := (h.count_le hs).2
  obtain ⟨_, _, rfl⟩ | ⟨_, _, _, _, rfl⟩ | ⟨hcap, _⟩ := persistStep_cases e
  · rfl
  · rfl
  · exact absurd hmax (Nat.not_le.mpr hcap)

/-- No label of the sequencer raises a fault: K3, C3 and C6 are the only ones that could. -/
theorem sequencerStep_fault (h : s.Inv) (e : sequencerStep s = .next t) : t.fault = s.fault := by
  unfold sequencerStep at e
  cases hp : s.phase <;> simp only [hp] at e
  case k3 => exact dispatchStep_fault h e
  case c3 => exact storeStep_fault h hp e
  case c6 => exact persistStep_fault h hp e
  case k0 => obtain ⟨_, rfl⟩ | ⟨_, _, _, rfl⟩ := waitTick_cases e <;> rfl
  case k1 => obtain ⟨_, rfl⟩ | ⟨_, rfl⟩ := pollInputStep_cases e <;> rfl
  case k2 => obtain ⟨_, rfl⟩ | ⟨_, _, rfl⟩ | ⟨_, _, rfl⟩ := eventsStep_cases e <;> rfl
  case i2 => obtain ⟨_, rfl⟩ | ⟨_, _, rfl⟩ | ⟨_, _, rfl⟩ := identifyStep_cases e <;> rfl
  case n1 =>
    obtain ⟨_, hr⟩ | ⟨_, rfl⟩ := errorTestStep_cases e
    · exact reject_fault hr
    · rfl
  case n3 =>
    obtain ⟨_, rfl⟩ | ⟨_, hr⟩ := lengthTestStep_cases e
    · rfl
    · exact reject_fault hr
  case c1 => obtain ⟨_, rfl⟩ | ⟨_, rfl⟩ := loopTestStep_cases e <;> rfl
  case c5 => obtain ⟨_, rfl⟩ | ⟨_, rfl⟩ := delayStep_cases e <;> rfl
  case i1 | n2 | n4 | c0 | c4 | c7 | n4State | c7State | emit | i0 | n0 | c2 | transfer =>
    cases e
    rfl

/-! ### The transfer, and the step at a phase -/

/-- The controller's part in a poll writes no block register (R146). -/
theorem controllerPoll_fault (s : State) : (controllerPoll s).fault = s.fault := by
  obtain ⟨_, e⟩ | ⟨_, _, e⟩ | ⟨_, n, st, r, more, rest, _, e⟩ | ⟨_, st, r, more, rest, _, e⟩ :=
    controllerPoll_cases s <;> rw [e]

/-- `t` has the fault register of `s`, or the block's `LinkStall` under a finite poll bound (R89). -/
def State.RaisesOnlyLinkStall (s t : State) : Prop :=
  t.fault = s.fault ∨ (t.fault = some (.linkStall s.cfg.channel) ∧ s.cfg.pollBound ≠ none)

/-- Without a bound none is ever reached (R89). -/
theorem pollBound_of_boundReached {c : Config} {n : Nat} (hb : boundReached c n = true) :
    c.pollBound ≠ none := by
  intro hnone
  simp [boundReached, hnone] at hb

/-- T5 raises `LinkStall` where the bound is reached; a poll below it raises nothing (R81, R89). -/
theorem transferStep_t5_raisesOnlyLinkStall (h : s.Inv) {x : Transfer}
    (e : transferStep .t5 x s = .next t) : s.RaisesOnlyLinkStall t := by
  cases hb : boundReached s.cfg s.polls with
  | true =>
    rw [transferStep_t5_bound hb] at e
    cases e
    exact .inr ⟨rfl, pollBound_of_boundReached hb⟩
  | false =>
    rw [transferStep_t5 h.legal h.aligned hb] at e
    cases hbusy : (controllerPoll s).link.busy <;> simp only [hbusy, countPoll_eq] at e <;> cases e <;>
      exact .inl (controllerPoll_fault s)

/-- The other labels of a transfer raise nothing: their accesses are aligned and within the buffer (R48). -/
theorem transferStep_raisesOnlyLinkStall (h : s.Inv) {l : TransferLabel} {x : Transfer}
    (hp : s.phase = .transfer l x) (e : transferStep l x s = .next t) : s.RaisesOnlyLinkStall t := by
  cases l with
  | t1 =>
    rw [transferStep_t1] at e
    cases e
    exact .inl rfl
  | t2 =>
    rw [transferStep_t2 h.legal h.aligned] at e
    cases e
    exact .inl rfl
  | t3 cw =>
    rw [transferStep_t3 h.aligned] at e
    cases e
    exact .inl rfl
  | t4 cw =>
    rw [transferStep_t4 h.aligned (controlRefusal_inFlight h hp)] at e
    cases e
    exact .inl rfl
  | t5 => exact transferStep_t5_raisesOnlyLinkStall h e
  | t6 =>
    rw [transferStep_t6 h.aligned] at e
    cases e
    exact .inl rfl
  | t7 =>
    rw [transferStep_t7 h.legal h.aligned] at e
    cases e
    exact .inl rfl

/-- The step at a phase raises a fault only within a transfer. -/
theorem runPhase_raisesOnlyLinkStall (h : s.Inv) (e : runPhase s = .next t) :
    s.RaisesOnlyLinkStall t := by
  have sequencer (hf : fetch s.phase = none) : s.RaisesOnlyLinkStall t := by
    rw [runPhase_none hf] at e
    exact .inl (sequencerStep_fault h e)
  cases hp : s.phase with
  | transfer l x =>
    rw [runPhase_transfer h hp] at e
    exact transferStep_raisesOnlyLinkStall h hp e
  | i0 =>
    rw [runPhase_i0 hp] at e
    cases e
    exact .inl rfl
  | n0 =>
    rw [runPhase_n0_c2 (.inl hp)] at e
    cases e
    exact .inl rfl
  | c2 =>
    rw [runPhase_n0_c2 (.inr hp)] at e
    cases e
    exact .inl rfl
  | k0 | k1 | k2 | k3 | i1 | i2 | n1 | n2 | n3 | n4 | c0 | c1 | c3 | c4 | c5 | c6 | c7
  | n4State | c7State | emit => exact sequencer (by rw [hp]; rfl)

/-- The guard of R32 passes every step at a phase of the invariant, so it raises no `InvariantViolation`
(R141). -/
theorem runPhase_of_guardInvariant (h : s.Inv) (e : guardInvariant s (runPhase s) = .next t) :
    runPhase s = .next t := by
  obtain ⟨hrun, _⟩ | ⟨u, hrun, hbreaks, _, _⟩ := guardInvariant_cases e
  · exact hrun
  · simp [(inv_runPhase h hrun).session] at hbreaks

end FaultRegister

/-- Settles O53: a restart clears the fault register, a halted block keeps it, the guard passes, and the step at
the phase raises `LinkStall` only. -/
theorem onlyLinkStallIsEverRaised : Obligations.OnlyLinkStallIsEverRaised := by
  intro s t h hf e hraised
  have hinput := inv_hostInput h
  obtain ⟨r, _, rfl⟩ | ⟨_, _, hclear, ⟨_, rfl⟩ | ⟨_, hg⟩⟩ := step_cases e
  · exact absurd rfl hraised
  · exact absurd hclear hraised
  · obtain hkept | hstall := runPhase_raisesOnlyLinkStall hinput (runPhase_of_guardInvariant hinput hg)
    · exact absurd (hkept.trans hclear) hraised
    · simpa only [hostInput_cfg] using hstall

end Sys2Proof.Machine
end

section
/-!
PROOFS. The statements of 70_reset_and_hazards.md about reset alone: the register values of R153, and that
reset establishes the invariant. That every step keeps it is `everyStepKeepsTheInvariant`.
-/

namespace Sys2Proof.Machine

/-! ### The clauses of the invariant after reset -/

section Reset
variable (c : Config)

/-- Reset leaves the block in Idle with nothing captured, which is all R32 asks of Idle. -/
theorem sessionOk_resetWith : (State.resetWith c).sessionOk = true :=
  sessionOk_iff.mpr ⟨fun hs => (nomatch hs), fun _ => rfl⟩

/-- Reset leaves the session registers at the values Idle holds them at (R34), the width latch at the
configuration's own width. -/
theorem registersOk_resetWith : (State.resetWith c).registersOk = true := by
  simp [State.registersOk, State.resetWith]

/-- K0, where reset leaves the block, presumes a count of 0. -/
theorem phaseOk_resetWith : (State.resetWith c).phaseOk = true := rfl

/-- Reset leaves both memories without a listed byte. -/
theorem memoryOk_resetWith : (State.resetWith c).memoryOk = true :=
  memoryOk_iff.mpr ⟨rfl, rfl, rfl, rfl⟩

/-- The platform's part of the invariant is legality and alignment of its configuration; the other clauses hold
after reset whatever the configuration is. -/
theorem inv_resetWith (hlegal : c.legal = true) (haligned : c.aligned = true) :
    (State.resetWith c).Inv where
  legal := hlegal
  aligned := haligned
  host := rfl
  session := sessionOk_resetWith c
  registers := registersOk_resetWith c
  phase := phaseOk_resetWith c
  memory := memoryOk_resetWith c

end Reset

/-- Settles O48: the cleared capture buffer reads 0 at every entry, and each other register is a field that reset
writes out. -/
theorem resetGivesEveryRegisterItsValue : Obligations.ResetGivesEveryRegisterItsValue := by
  refine ⟨fun c => ?_, Config.reference, rfl, by decide⟩
  have hentry : ∀ i, (State.resetWith c).entry i = 0 := Memory.readWord_nil
  exact ⟨rfl, rfl, rfl, rfl, rfl, rfl, rfl, rfl, rfl, rfl, rfl, hentry, rfl, rfl, rfl⟩

/-- Settles O51, clause by clause of the invariant. -/
theorem resetMeetsTheInvariant : Obligations.ResetMeetsTheInvariant := inv_resetWith

end Sys2Proof.Machine
end
